-- ==== Sys2Proof/Word.lean ====
section
/-! DEFINITION. The two word types of the machine (spec 00_scope.md R7, R9): an unsigned byte `u8` and an
unsigned 16-bit word `u16`. Addresses, PC and SP are 16-bit words; a memory cell, a register and a port number are bytes. -/

namespace Sys2Proof

/-- `u8`: a general register, a memory cell, a port number (R7). -/
abbrev Byte := BitVec 8

/-- `u16`: PC, SP, a memory address, a 16-bit operand (R7). Its addition and subtraction wrap modulo 2^16 (R9, R26, R28). -/
abbrev Word := BitVec 16

end Sys2Proof
end

