-- ==== Sys2Proof/Syntax.lean ====
section
/-! DEFINITION. The instructions: one constructor of `Instr` per mnemonic of spec/opcode_table.json (30_encoding.md
R80, R81, R89), with its operands. Operand codes are inductive types, so the machine never sees a raw field. -/

namespace Sys2Proof

/-- A register code of R74 other than 110. -/
inductive Reg where
  | b | c | d | e | h | l | a
  deriving DecidableEq, Repr

/-- The three register pairs (R22), the operands of PUSH and POP. -/
inductive Pair where
  | bc | de | hl
  deriving DecidableEq, Repr

/-- The pair operands of LXI, INX, DCX and DAD, where code 11 is SP (R75). -/
inductive RegPair where
  | bc | de | hl | sp
  deriving DecidableEq, Repr

/-- The pointer operands of LDAX and STAX, for which only BC and DE exist (R75, R83). -/
inductive PtrPair where
  | bc | de
  deriving DecidableEq, Repr

/-- The condition codes of R76. -/
inductive Cond where
  | nz | z | nc | c | po | pe | p | m
  deriving DecidableEq, Repr

/-- The instructions, in the order in which spec/opcode_table.json first names them. `R` and `M` at the end of a
name say whether the operand is a register or the memory byte at HL. -/
inductive Instr where
  | nop
  | lxi (rp : RegPair) (d16 : Word)
  | stax (p : PtrPair)
  | inx (rp : RegPair)
  | inrR (r : Reg)
  | dcrR (r : Reg)
  | mviR (r : Reg) (d8 : Byte)
  | rlc
  | dad (rp : RegPair)
  | ldax (p : PtrPair)
  | dcx (rp : RegPair)
  | rrc
  | ral
  | rar
  | shld (a16 : Word)
  | daa
  | lhld (a16 : Word)
  | cma
  | sta (a16 : Word)
  | inrM
  | dcrM
  | mviM (d8 : Byte)
  | stc
  | lda (a16 : Word)
  | cmc
  | movRR (r1 r2 : Reg)
  | movRM (r : Reg)
  | movMR (r : Reg)
  | hlt
  | addR (r : Reg)
  | addM
  | adcR (r : Reg)
  | adcM
  | subR (r : Reg)
  | subM
  | sbbR (r : Reg)
  | sbbM
  | anaR (r : Reg)
  | anaM
  | xraR (r : Reg)
  | xraM
  | oraR (r : Reg)
  | oraM
  | cmpR (r : Reg)
  | cmpM
  | rcc (cc : Cond)
  | popRp (rp : Pair)
  | jcc (cc : Cond) (a16 : Word)
  | jmp (a16 : Word)
  | ccc (cc : Cond) (a16 : Word)
  | pushRp (rp : Pair)
  | adi (d8 : Byte)
  | rst (n : Nat)
  | ret
  | call (a16 : Word)
  | aci (d8 : Byte)
  | outP (p8 : Byte)
  | sui (d8 : Byte)
  | inP (p8 : Byte)
  | sbi (d8 : Byte)
  | xthl
  | ani (d8 : Byte)
  | pchl
  | xchg
  | xri (d8 : Byte)
  | popPsw
  | di
  | pushPsw
  | ori (d8 : Byte)
  | sphl
  | ei
  | cpi (d8 : Byte)
  deriving DecidableEq, Repr

end Sys2Proof
end

