-- ==== Sys2Proof/WellFormed.lean ====
section
/-! DEFINITION. Which instructions are well formed. The operand types leave one thing to check: the vector number of
RST is three bits wide (30_encoding.md R72; 43_branch.md R188, "n = nnn (0 to 7)"). -/

namespace Sys2Proof

/-- An instruction that the encoding can express: RST has one of eight vectors (R188). -/
def Instr.wellFormed : Instr → Bool
  | .rst n => n < 8
  | _ => true

end Sys2Proof
end

