-- ==== Sys2Proof/Decode.lean ====
section
/-! DEFINITION. Decoding and encoding (spec 30_encoding.md), and the byte-order helpers everything else uses.
The decoder is written from the field patterns of R81; it is total and rejects the twelve opcodes of R84 by name.
The encoder is written from the operand codes of R74 to R77 and the patterns of R81. -/

namespace Sys2Proof

/-! ### Byte order (00_scope.md R8, 20_memory.md R54 to R56) -/

/-- `v[7:0]` of a word. -/
def loByte (v : Word) : Byte := v.setWidth 8

/-- `v[15:8]` of a word. -/
def hiByte (v : Word) : Byte := (v >>> 8).setWidth 8

/-- `{h, l} = (h << 8) | l` (R8). -/
def joinBytes (hi lo : Byte) : Word := (hi.setWidth 16 <<< 8) ||| lo.setWidth 16

/-! ### Operand codes -/

/-- R74. Code 110 is M and has no register. -/
def regOfCode : Nat → Option Reg
  | 0 => some .b
  | 1 => some .c
  | 2 => some .d
  | 3 => some .e
  | 4 => some .h
  | 5 => some .l
  | 7 => some .a
  | _ => none

/-- R74. -/
def Reg.code : Reg → Byte
  | .b => 0
  | .c => 1
  | .d => 2
  | .e => 3
  | .h => 4
  | .l => 5
  | .a => 7

/-- R75, for LXI, INX, DCX and DAD. -/
def regPairOfCode : Nat → RegPair
  | 0 => .bc
  | 1 => .de
  | 2 => .hl
  | _ => .sp

/-- R75. -/
def RegPair.code : RegPair → Byte
  | .bc => 0
  | .de => 1
  | .hl => 2
  | .sp => 3

/-- R75, for PUSH and POP: code 11 is no pair but PSW. -/
def pairOfCode : Nat → Option Pair
  | 0 => some .bc
  | 1 => some .de
  | 2 => some .hl
  | _ => none

/-- R75. -/
def Pair.code : Pair → Byte
  | .bc => 0
  | .de => 1
  | .hl => 2

/-- R75, for LDAX and STAX: `p` 0 is BC and 1 is DE. -/
def PtrPair.code : PtrPair → Byte
  | .bc => 0
  | .de => 1

/-- R76. -/
def condOfCode : Nat → Cond
  | 0 => .nz
  | 1 => .z
  | 2 => .nc
  | 3 => .c
  | 4 => .po
  | 5 => .pe
  | 6 => .p
  | _ => .m

/-- R76. -/
def Cond.code : Cond → Byte
  | .nz => 0
  | .z => 1
  | .nc => 2
  | .c => 3
  | .po => 4
  | .pe => 5
  | .p => 6
  | .m => 7

/-! ### The decoder -/

/-- What an opcode byte selects (R71, R82): an instruction of one byte, one that takes a `d8`, one that takes a
`d16`, or nothing (R84). -/
inductive Form where
  | one (i : Instr)
  | two (k : Byte → Instr)
  | three (k : Word → Instr)
  | unsupported

/-- Bits `[5:3]`: `ddd`, `ccc`, `aaa` or `nnn` (R72). -/
def midField (op : Byte) : Nat := op.toNat / 8 % 8

/-- Bits `[2:0]`: `sss` (R72). -/
def lowField (op : Byte) : Nat := op.toNat % 8

/-- Bits `[5:4]`: `pp` (R72). -/
def pairField (op : Byte) : Nat := op.toNat / 16 % 4

/-- The opcodes `00......`, by their low field (R81). -/
def quarter0 (op : Byte) : Form :=
  match lowField op with
  | 0 => if midField op = 0 then .one .nop else .unsupported
  | 1 =>
    if midField op % 2 = 0 then .three (.lxi (regPairOfCode (pairField op)))
    else .one (.dad (regPairOfCode (pairField op)))
  | 2 =>
    match midField op with
    | 0 => .one (.stax .bc)
    | 1 => .one (.ldax .bc)
    | 2 => .one (.stax .de)
    | 3 => .one (.ldax .de)
    | 4 => .three .shld
    | 5 => .three .lhld
    | 6 => .three .sta
    | _ => .three .lda
  | 3 =>
    if midField op % 2 = 0 then .one (.inx (regPairOfCode (pairField op)))
    else .one (.dcx (regPairOfCode (pairField op)))
  | 4 =>
    match regOfCode (midField op) with
    | some r => .one (.inrR r)
    | none => .one .inrM
  | 5 =>
    match regOfCode (midField op) with
    | some r => .one (.dcrR r)
    | none => .one .dcrM
  | 6 =>
    match regOfCode (midField op) with
    | some r => .two (.mviR r)
    | none => .two .mviM
  | _ =>
    match midField op with
    | 0 => .one .rlc
    | 1 => .one .rrc
    | 2 => .one .ral
    | 3 => .one .rar
    | 4 => .one .daa
    | 5 => .one .cma
    | 6 => .one .stc
    | _ => .one .cmc

/-- The opcodes `01dddsss`: the moves, and HLT where `MOV M,M` would stand (R81, R83). -/
def quarter1 (op : Byte) : Form :=
  match regOfCode (midField op), regOfCode (lowField op) with
  | some dst, some src => .one (.movRR dst src)
  | some dst, none => .one (.movRM dst)
  | none, some src => .one (.movMR src)
  | none, none => .one .hlt

/-- The opcodes `10aaasss`: the ALU group on a register or on M (R77, R81). -/
def quarter2 (op : Byte) : Form :=
  match midField op, regOfCode (lowField op) with
  | 0, some r => .one (.addR r)
  | 0, none => .one .addM
  | 1, some r => .one (.adcR r)
  | 1, none => .one .adcM
  | 2, some r => .one (.subR r)
  | 2, none => .one .subM
  | 3, some r => .one (.sbbR r)
  | 3, none => .one .sbbM
  | 4, some r => .one (.anaR r)
  | 4, none => .one .anaM
  | 5, some r => .one (.xraR r)
  | 5, none => .one .xraM
  | 6, some r => .one (.oraR r)
  | 6, none => .one .oraM
  | _, some r => .one (.cmpR r)
  | _, none => .one .cmpM

/-- The opcodes `11......`, by their low field (R81, R84). -/
def quarter3 (op : Byte) : Form :=
  match lowField op with
  | 0 => .one (.rcc (condOfCode (midField op)))
  | 1 =>
    match midField op with
    | 1 => .one .ret
    | 3 => .unsupported
    | 5 => .one .pchl
    | 7 => .one .sphl
    | _ =>
      match pairOfCode (pairField op) with
      | some rp => .one (.popRp rp)
      | none => .one .popPsw
  | 2 => .three (.jcc (condOfCode (midField op)))
  | 3 =>
    match midField op with
    | 0 => .three .jmp
    | 1 => .unsupported
    | 2 => .two .outP
    | 3 => .two .inP
    | 4 => .one .xthl
    | 5 => .one .xchg
    | 6 => .one .di
    | _ => .one .ei
  | 4 => .three (.ccc (condOfCode (midField op)))
  | 5 =>
    match midField op with
    | 1 => .three .call
    | 3 => .unsupported
    | 5 => .unsupported
    | 7 => .unsupported
    | _ =>
      match pairOfCode (pairField op) with
      | some rp => .one (.pushRp rp)
      | none => .one .pushPsw
  | 6 =>
    match midField op with
    | 0 => .two .adi
    | 1 => .two .aci
    | 2 => .two .sui
    | 3 => .two .sbi
    | 4 => .two .ani
    | 5 => .two .xri
    | 6 => .two .ori
    | _ => .two .cpi
  | _ => .one (.rst (midField op))

/-- The instruction an opcode byte selects, or none (R80 to R84). -/
def opcodeForm (op : Byte) : Form :=
  match op.toNat / 64 with
  | 0 => quarter0 op
  | 1 => quarter1 op
  | 2 => quarter2 op
  | _ => quarter3 op

/-- The answer of the decoder: an instruction and the bytes after it, an opcode without an instruction (R84), or too
few bytes. -/
inductive Decoded where
  | ok (i : Instr) (rest : List Byte)
  | unsupported (op : Byte)
  | truncated
  deriving DecidableEq, Repr

/-- The decoder, total on any bytes (R82). The operand bytes are little-endian (R54, R78). -/
def decode : List Byte → Decoded
  | [] => .truncated
  | op :: bs =>
    match opcodeForm op with
    | .unsupported => .unsupported op
    | .one i => .ok i bs
    | .two k =>
      match bs with
      | d8 :: rest => .ok (k d8) rest
      | [] => .truncated
    | .three k =>
      match bs with
      | lo :: hi :: rest => .ok (k (joinBytes hi lo)) rest
      | _ => .truncated

/-! ### The encoder -/

/-- An opcode of the pattern `base` with a field of code `f` whose bit 0 is bit `at_` of the byte (R72). -/
def withField (base : Byte) (at_ : Nat) (f : Byte) : Byte := base ||| (f <<< at_)

/-- The opcode byte of an instruction (R74 to R77, R81). -/
def Instr.opcode : Instr → Byte
  | .nop => 0x00
  | .lxi rp _ => withField 0x01 4 rp.code
  | .stax p => withField 0x02 4 p.code
  | .inx rp => withField 0x03 4 rp.code
  | .inrR r => withField 0x04 3 r.code
  | .dcrR r => withField 0x05 3 r.code
  | .mviR r _ => withField 0x06 3 r.code
  | .rlc => 0x07
  | .dad rp => withField 0x09 4 rp.code
  | .ldax p => withField 0x0A 4 p.code
  | .dcx rp => withField 0x0B 4 rp.code
  | .rrc => 0x0F
  | .ral => 0x17
  | .rar => 0x1F
  | .shld _ => 0x22
  | .daa => 0x27
  | .lhld _ => 0x2A
  | .cma => 0x2F
  | .sta _ => 0x32
  | .inrM => 0x34
  | .dcrM => 0x35
  | .mviM _ => 0x36
  | .stc => 0x37
  | .lda _ => 0x3A
  | .cmc => 0x3F
  | .movRR r1 r2 => withField (withField 0x40 3 r1.code) 0 r2.code
  | .movRM r => withField 0x46 3 r.code
  | .movMR r => withField 0x70 0 r.code
  | .hlt => 0x76
  | .addR r => withField 0x80 0 r.code
  | .addM => 0x86
  | .adcR r => withField 0x88 0 r.code
  | .adcM => 0x8E
  | .subR r => withField 0x90 0 r.code
  | .subM => 0x96
  | .sbbR r => withField 0x98 0 r.code
  | .sbbM => 0x9E
  | .anaR r => withField 0xA0 0 r.code
  | .anaM => 0xA6
  | .xraR r => withField 0xA8 0 r.code
  | .xraM => 0xAE
  | .oraR r => withField 0xB0 0 r.code
  | .oraM => 0xB6
  | .cmpR r => withField 0xB8 0 r.code
  | .cmpM => 0xBE
  | .rcc cc => withField 0xC0 3 cc.code
  | .popRp rp => withField 0xC1 4 rp.code
  | .jcc cc _ => withField 0xC2 3 cc.code
  | .jmp _ => 0xC3
  | .ccc cc _ => withField 0xC4 3 cc.code
  | .pushRp rp => withField 0xC5 4 rp.code
  | .adi _ => 0xC6
  | .rst n => withField 0xC7 3 (BitVec.ofNat 8 n)
  | .ret => 0xC9
  | .call _ => 0xCD
  | .aci _ => 0xCE
  | .outP _ => 0xD3
  | .sui _ => 0xD6
  | .inP _ => 0xDB
  | .sbi _ => 0xDE
  | .xthl => 0xE3
  | .ani _ => 0xE6
  | .pchl => 0xE9
  | .xchg => 0xEB
  | .xri _ => 0xEE
  | .popPsw => 0xF1
  | .di => 0xF3
  | .pushPsw => 0xF5
  | .ori _ => 0xF6
  | .sphl => 0xF9
  | .ei => 0xFB
  | .cpi _ => 0xFE

/-- A 16-bit operand as it stands in memory: the low byte first (R54). -/
def wordBytes (v : Word) : List Byte := [loByte v, hiByte v]

/-- The operand bytes after the opcode (R71). -/
def Instr.operandBytes : Instr → List Byte
  | .lxi _ d16 => wordBytes d16
  | .mviR _ d8 => [d8]
  | .shld a16 => wordBytes a16
  | .lhld a16 => wordBytes a16
  | .sta a16 => wordBytes a16
  | .mviM d8 => [d8]
  | .lda a16 => wordBytes a16
  | .jcc _ a16 => wordBytes a16
  | .jmp a16 => wordBytes a16
  | .ccc _ a16 => wordBytes a16
  | .adi d8 => [d8]
  | .call a16 => wordBytes a16
  | .aci d8 => [d8]
  | .outP p8 => [p8]
  | .sui d8 => [d8]
  | .inP p8 => [p8]
  | .sbi d8 => [d8]
  | .ani d8 => [d8]
  | .xri d8 => [d8]
  | .ori d8 => [d8]
  | .cpi d8 => [d8]
  | .nop | .stax _ | .inx _ | .inrR _ | .dcrR _ | .rlc | .dad _ | .ldax _ | .dcx _ | .rrc | .ral | .rar | .daa
  | .cma | .inrM | .dcrM | .stc | .cmc | .movRR _ _ | .movRM _ | .movMR _ | .hlt | .addR _ | .addM | .adcR _
  | .adcM | .subR _ | .subM | .sbbR _ | .sbbM | .anaR _ | .anaM | .xraR _ | .xraM | .oraR _ | .oraM | .cmpR _
  | .cmpM | .rcc _ | .popRp _ | .pushRp _ | .rst _ | .ret | .xthl | .pchl | .xchg | .popPsw | .di | .pushPsw
  | .sphl | .ei => []

/-- The bytes of an instruction, in the order of their addresses (R71). -/
def encode (i : Instr) : List Byte := i.opcode :: i.operandBytes

/-- The instruction's length in bytes (R73). -/
def Instr.length (i : Instr) : Nat := (encode i).length

/-! ### The opcode table's words -/

/-- The three bytes, lowest address first, of a word of `nbits` bits whose bit 0 is bit 0 of the first byte. The bits
above `nbits` are 0. -/
def tableWordBytes (nbits w : Nat) : List Byte :=
  let v := w % 2 ^ nbits
  [BitVec.ofNat 8 v, BitVec.ofNat 8 (v / 256), BitVec.ofNat 8 (v / 65536)]

/-- What the decoder reads from an opcode-table word (`none` where it refuses). -/
def decodeTableWord (nbits w : Nat) : Option Instr :=
  match decode (tableWordBytes nbits w) with
  | .ok i _ => some i
  | .unsupported _ => none
  | .truncated => none

end Sys2Proof
end

