-- ==== Sys2Proof/Config.lean ====
section
/-! DEFINITION. The parameters of a run (spec 00_scope.md R6, R41): they are arguments of the machine, fixed for a run.
`Config` is plain data and stands as one read-only field of `State` (log entry 1), so every statement about all
states is a statement about all parameter values. The host's free inputs stand here as a constant with no body. -/

namespace Sys2Proof

/-- `AC_SUB_MODE` and `AC_ANA_MODE` (R6, R122, R160): the source's rule, or what Intel silicon computes. -/
inductive AcMode where
  | source
  | intel
  deriving DecidableEq, Repr

/-- The cycles one opcode costs: the taken and the not-taken count (R6, R273). Opcodes with one fixed cost have it twice. -/
structure CycleCost where
  taken : Nat
  notTaken : Nat
  deriving DecidableEq, Repr

/-- `CYCLE_TABLE` (R6, R272): the table of R272, or another one given by opcode byte (an opcode past the end of
`rows` costs 0, log entry 13). -/
inductive CycleTable where
  | standard
  | rows (rows : List CycleCost)
  deriving DecidableEq, Repr

/-- What stands behind the callbacks `INPUT` and `OUTPUT` (R6): the port devices of the arcade machine (R240 to
R246), or a host of whom nothing is known (every IN is a draw, every OUT is only reported; log entry 6). -/
inductive PortMap where
  | arcade
  | external
  deriving DecidableEq, Repr

/-- Who calls `Step()` (R261 point 4): the frame synchronizer (R230), or the conformance harness (R264). -/
inductive Runner where
  | synchronizer
  | harness
  deriving DecidableEq, Repr

/-- The parameters of R6. `FRAME_CYCLES` and `HALF_CYCLES` are computed from the two rates, as R6 says. -/
structure Config where
  memSize : Nat
  resetPc : Word
  clockHz : Nat
  refreshHz : Nat
  vecA : Word
  vecB : Word
  cycleTable : CycleTable
  intCycles : Nat
  intClearsIe : Bool
  acSubMode : AcMode
  acAnaMode : AcMode
  ports : PortMap
  runner : Runner
  deriving DecidableEq, Repr

/-- `FRAME_CYCLES = CLOCK_HZ / REFRESH_HZ`, integer division (R6). -/
def Config.frameCycles (c : Config) : Nat := c.clockHz / c.refreshHz

/-- `HALF_CYCLES = FRAME_CYCLES / 2`, integer division (R6). -/
def Config.halfCycles (c : Config) : Nat := c.frameCycles / 2

/-- The arcade configuration: every parameter at its default (R6). -/
def Config.arcade : Config where
  memSize := 65536
  resetPc := 0x0000#16
  clockHz := 2000000
  refreshHz := 60
  vecA := 0x0008#16
  vecB := 0x0010#16
  cycleTable := .standard
  intCycles := 0
  intClearsIe := true
  acSubMode := .source
  acAnaMode := .source
  ports := .arcade
  runner := .synchronizer

/-- The conformance configuration (R6, R264): 16384 bytes of memory, PC forced to 0x0100, no synchronizer, and no
arcade devices behind the ports. -/
def Config.conformance : Config :=
  { Config.arcade with memSize := 16384, resetPc := 0x0100#16, ports := .external, runner := .harness }

/-- FREE VALUE (R245, D36; log entry 5): the byte the host answers an IN with when none stands ready in the
state's `inputs`. Its arguments are the number of free draws made before and the port. It has no body, so no
proof can see a value of it. -/
opaque Config.hostInput : Nat → Byte → Byte

end Sys2Proof
end

