-- ==== Sys2Proof/Machine/State.lean ====
section
/-! DEFINITION. The state of the machine, as plain data: everything the spec gives the CPU, the frame synchronizer and
the port devices (10_state.md), the parameters of the run, and the model's own record of the host's side of the
callbacks. Also the reasons a step can stop, and the state after reset. -/

namespace Sys2Proof.Machine

/-- The register file: seven 8-bit registers (R20). No register is hard-wired. -/
structure Regs where
  b : Byte
  c : Byte
  d : Byte
  e : Byte
  h : Byte
  l : Byte
  a : Byte
  deriving DecidableEq, Repr

/-- The five condition flags (R29). -/
structure Flags where
  s : Bool
  z : Bool
  ac : Bool
  p : Bool
  cy : Bool
  deriving DecidableEq, Repr

/-- The state of the port devices (R43, R240 to R246). `shiftOff` is 0 to 7, so three bits. -/
structure Devices where
  shift : BitVec 16
  shiftOff : BitVec 3
  watchdog : Byte
  sound1 : Byte
  sound2 : Byte
  deriving DecidableEq, Repr

/-- Which of the two vector addresses the alternator `next_vec` holds (R39): `VEC_A` or `VEC_B` of the configuration. -/
inductive VecSel where
  | a
  | b
  deriving DecidableEq, Repr

/-- The point of `Frame()` the synchronizer has reached (R230): its first burst with the delivery after it, or its second.
The spec's pseudocode implies this state; it names no variable for it (log entry 3). -/
inductive FrameHalf where
  | first
  | second
  deriving DecidableEq, Repr

/-- The two sound banks (R243). -/
inductive SoundBank where
  | one
  | two
  deriving DecidableEq, Repr

/-- What the host sees of a run through the callbacks (R60, R243, R248, R264): the calls of `INPUT` (with the
byte it returned) and `OUTPUT`, the sound events, and the characters the conformance harness prints. -/
inductive HostEvent where
  | input (port value : Byte)
  | output (port value : Byte)
  | sound (bank : SoundBank) (bit : Nat)
  | print (ch : Byte)
  deriving DecidableEq, Repr

/-- Memory: the listed cells, in strictly rising order of address, none of them 0x00. An unlisted address reads as
0x00 (R42, D29; log entry 8). -/
abbrev Memory := List Host.Cell

/-- The state of the machine. -/
structure State where
  /-- A, B, C, D, E, H, L (R20). -/
  regs : Regs
  /-- CY, AC, S, Z, P (R29). -/
  flags : Flags
  /-- The program counter (R25). -/
  pc : Word
  /-- The stack pointer (R27). -/
  sp : Word
  /-- Interrupt enable (R36). -/
  ie : Bool
  /-- Halted (R37). -/
  halted : Bool
  /-- The CPU's cycle count (R38). -/
  cyc : Nat
  /-- The synchronizer's cycle counter for the current frame (R39). -/
  fc : Nat
  /-- The alternator (R39). -/
  nextVec : VecSel
  /-- The point of `Frame()` reached (R230). -/
  half : FrameHalf
  /-- Memory (R50, R51). -/
  mem : Memory
  /-- The port devices (R43). -/
  dev : Devices
  /-- The parameters of the run (R6, R41); no step changes them. -/
  cfg : Config
  /-- The bytes the host has ready for the next draws of `INPUT`, first one first (the model's own field, log entry 5). -/
  inputs : List Byte
  /-- How many draws of `INPUT` were free values (the model's own field, log entry 5). -/
  draws : Nat
  /-- What the host has seen so far, oldest first (the model's own field, log entry 7). -/
  events : List HostEvent
  deriving DecidableEq, Repr

/-- Why the run ends. In every case the outcome carries no state: the spec leaves none to be read (R223, R251). -/
inductive Fault where
  /-- E2 of R220, raised by every memory access of a Step, of interrupt delivery, of the harness or of the ROM loader at an
  address that is not below `MEM_SIZE` (R221). Safe: the spec ends the run here. -/
  | memoryOutOfBounds (addr : Word)
  /-- E3 of R220, raised by the ROM loader before the first Step, for a part that cannot be read (R224) or is longer than
  its room (R262; log entry 24). No step raises it. Safe: the spec's run never starts. -/
  | romLoadFailure (part : String) (cause : String)
  /-- Not an error: the normal end of a conformance run, PC = 0x0000 at a step boundary (R251 (c), R264). Safe. -/
  | harnessEnd
  /-- Stuck: the harness prints from `addr` and no byte of memory is the terminator, so its loop in R264 never ends. Safe. -/
  | harnessPrintEndless (addr : Word)
  deriving DecidableEq, Repr

/-- Why the machine has no meaning for what it fetched. -/
inductive Refusal where
  /-- An instruction that has no meaning in this model yet. No arm of `exec` answers it. Safe. -/
  | notModelled (mnemonic : String)
  /-- E1 of R220, raised by the Step that fetches one of the twelve opcodes without an instruction (R84, R222; U1 says
  "refuse"). Safe: the spec ends the run here. -/
  | unsupportedOpcode (opcode : Byte) (pc : Word)
  deriving DecidableEq, Repr

/-- What an operation of the machine answers: a value, or the reason it stops. -/
abbrev Res (α : Type) := Host.Outcome α Fault Refusal

/-- The state a run with the given parameters starts from, memory not loaded yet (R42, R43, R260). -/
def State.resetWith (cfg : Config) : State where
  regs := { b := 0, c := 0, d := 0, e := 0, h := 0, l := 0, a := 0 }
  flags := { s := false, z := false, ac := false, p := false, cy := false }
  pc := cfg.resetPc
  sp := 0
  ie := false
  halted := false
  cyc := 0
  fc := 0
  nextVec := .a
  half := .first
  mem := []
  dev := { shift := 0, shiftOff := 0, watchdog := 0, sound1 := 0, sound2 := 0 }
  cfg := cfg
  inputs := []
  draws := 0
  events := []

/-- The machine right after reset, in the default (arcade) configuration (R6, R260). -/
def State.reset : State := State.resetWith Config.arcade

end Sys2Proof.Machine
end

