-- ==== Sys2Proof/Machine/Ops.lean ====
section
/-! DEFINITION. The named operations over memory, the stack, PC and the host, and taking an interrupt: what every
instruction is built from (00_scope.md R10, R11; 20_memory.md; 44_stack.md R200; 60_exceptions.md R225). -/

namespace Sys2Proof.Machine

/-- Runs `r` and goes on with its value; a fault or a refusal ends the whole (R223: nothing after it happens). -/
def andThen {α β : Type} (r : Res α) (k : α → Res β) : Res β :=
  match r with
  | .next v => k v
  | .fault f => .fault f
  | .refused x => .refused x

/-! ### Memory (20_memory.md) -/

/-- What an address that no cell lists reads as (R42: "bytes not loaded are 0x00"; D29, log entry 8). -/
def Memory.unlisted : Byte := 0x00

/-- The byte at an address. -/
def Memory.read : Memory → Nat → Byte
  | [], _ => Memory.unlisted
  | (k, v) :: m, a => if a = k then v else Memory.read m a

/-- Memory with the byte `v` at address `a`, in canonical form again. -/
def Memory.write : Memory → Nat → Byte → Memory
  | [], a, v => if v = Memory.unlisted then [] else [(a, v)]
  | (k, w) :: m, a, v =>
    if a < k then (if v = Memory.unlisted then (k, w) :: m else (a, v) :: (k, w) :: m)
    else if a = k then (if v = Memory.unlisted then m else (a, v) :: m)
    else (k, w) :: Memory.write m a v

/-- Every listed address is above `lo`, in strictly rising order, and no cell is what an unlisted address reads as. -/
def Memory.wfAbove : Nat → Memory → Bool
  | _, [] => true
  | lo, (k, v) :: m => decide (lo < k) && v != Memory.unlisted && Memory.wfAbove k m

/-- The canonical form: addresses strictly rising, no cell that reads as an unlisted address does. -/
def Memory.wf : Memory → Bool
  | [] => true
  | (k, v) :: m => v != Memory.unlisted && Memory.wfAbove k m

/-- No cell is listed at or above `size` (R51: the memory has `MEM_SIZE` bytes). -/
def Memory.within (size : Nat) (m : Memory) : Bool := m.all fun cell => decide (cell.1 < size)

/-- `MemRead(a, 1)` (R11, R52). -/
def read8 (s : State) (a : Word) : Res Byte :=
  if a.toNat < s.cfg.memSize then .next (s.mem.read a.toNat) else .fault (.memoryOutOfBounds a)

/-- `MemWrite(a, 1, v)` (R11, R52). -/
def write8 (a : Word) (v : Byte) (s : State) : Res State :=
  if a.toNat < s.cfg.memSize then .next { s with mem := s.mem.write a.toNat v } else .fault (.memoryOutOfBounds a)

/-- `MemRead(a, 2)`: little-endian, the lower address first (R11, R55, R69). -/
def read16 (s : State) (a : Word) : Res Word :=
  andThen (read8 s a) fun lo => andThen (read8 s (a + 1)) fun hi => .next (joinBytes hi lo)

/-- `MemWrite(a, 2, v)`: little-endian, the lower address first (R11, R55, R69). -/
def write16 (a : Word) (v : Word) (s : State) : Res State :=
  andThen (write8 a (loByte v) s) (write8 (a + 1) (hiByte v))

/-- `read_all`: every byte of memory, address 0 first (R50). No instruction reaches it. -/
def readAll (s : State) : List Byte := (List.range s.cfg.memSize).map s.mem.read

/-! ### PC and SP -/

/-- `PC <- v`. -/
def State.setPc (s : State) (v : Word) : State := { s with pc := v }

/-- `SP <- v`. -/
def State.setSp (s : State) (v : Word) : State := { s with sp := v }

/-- `trunc16(pc0 + len)` (R12, R26). -/
def State.nextPc (s : State) (len : Nat) : Word := s.pc + BitVec.ofNat 16 len

/-- `PC <- next`, the end of a sequential instruction of `len` bytes (R12, R90, R93). -/
def State.advance (len : Nat) (s : State) : State := s.setPc (s.nextPc len)

/-! ### The stack (44_stack.md R200) -/

/-- `Push16(v)`: the high byte at SP-1 first, then the low byte at SP-2, then SP. -/
def push16 (v : Word) (s : State) : Res State :=
  andThen (write8 (s.sp - 1) (hiByte v) s) fun s1 =>
  andThen (write8 (s.sp - 2) (loByte v) s1) fun s2 =>
  .next (s2.setSp (s.sp - 2))

/-- `Pop16()`: the low byte at SP, the high byte at SP+1, then SP. Answers the word and the new state. -/
def pop16 (s : State) : Res (Word × State) :=
  andThen (read16 s s.sp) fun v => .next (v, s.setSp (s.sp + 2))

/-! ### Taking an interrupt, and returning (60_exceptions.md R225 to R229) -/

/-- `ie <- v`. -/
def State.setIe (s : State) (v : Bool) : State := { s with ie := v }

/-- `halted <- v`. -/
def State.setHalted (s : State) (v : Bool) : State := { s with halted := v }

/-- What interrupt delivery answers: accepted, with the state after it, or rejected, with nothing changed. -/
inductive Delivery where
  | accepted (s : State)
  | rejected
  deriving DecidableEq, Repr

/-- `Interrupt(vec)` (R225): gated by `ie`, it clears `halted`, pushes PC, jumps to `vec`, and clears `ie` when
`INT_CLEARS_IE` says so. Only PC is saved, on the stack. -/
def interrupt (vec : Word) (s : State) : Res Delivery :=
  if s.ie then
    andThen (push16 s.pc (s.setHalted false)) fun s1 =>
      .next (.accepted ((s1.setPc vec).setIe (if s.cfg.intClearsIe then false else s.ie)))
  else .next .rejected

/-- The return of R186 and R187, which is also the only return from an interrupt (R229): `PC <- Pop16()`. -/
def returnFromCall (s : State) : Res State :=
  andThen (pop16 s) fun r => .next (r.2.setPc r.1)

/-! ### The host -/

/-- Records what the host sees. -/
def State.emit (s : State) (e : List HostEvent) : State := { s with events := s.events ++ e }

/-- A draw of the host's `INPUT` for a port (R245, D36): the first byte it has ready, or else a free value. -/
def State.draw (s : State) (port : Byte) : Byte × State :=
  match s.inputs with
  | v :: rest => (v, { s with inputs := rest })
  | [] => (Config.hostInput s.draws port, { s with draws := s.draws + 1 })

end Sys2Proof.Machine
end

