-- ==== Sys2Proof/Machine/Operands.lean ====
section
/-! DEFINITION. Every operand form: a register, the memory byte M at HL, a register pair, SP as a pair, the pointer
pairs, and the PSW (00_scope.md R10; 10_state.md R20 to R23, R33, R34; 30_encoding.md R74, R75). -/

namespace Sys2Proof.Machine

/-- `x[r]` (R10). -/
def Regs.get (x : Regs) : Reg → Byte
  | .b => x.b
  | .c => x.c
  | .d => x.d
  | .e => x.e
  | .h => x.h
  | .l => x.l
  | .a => x.a

/-- `x[r] <- v` (R10). -/
def Regs.set (x : Regs) (r : Reg) (v : Byte) : Regs :=
  match r with
  | .b => { x with b := v }
  | .c => { x with c := v }
  | .d => { x with d := v }
  | .e => { x with e := v }
  | .h => { x with h := v }
  | .l => { x with l := v }
  | .a => { x with a := v }

/-- The high register of a pair, its first-named one (R22). -/
def pairHi : Pair → Reg
  | .bc => .b
  | .de => .d
  | .hl => .h

/-- The low register of a pair (R22). -/
def pairLo : Pair → Reg
  | .bc => .c
  | .de => .e
  | .hl => .l

/-- `pair(rp) = {x[high], x[low]}` (R10, R22). -/
def Regs.pair (x : Regs) (rp : Pair) : Word := joinBytes (x.get (pairHi rp)) (x.get (pairLo rp))

/-- `pair(rp) <- v` (R10, R22). -/
def Regs.setPair (x : Regs) (rp : Pair) (v : Word) : Regs :=
  (x.set (pairHi rp) (hiByte v)).set (pairLo rp) (loByte v)

/-- Writes the register file. -/
def State.setRegs (s : State) (x : Regs) : State := { s with regs := x }

/-- Writes the flags. -/
def State.setFlags (s : State) (f : Flags) : State := { s with flags := f }

/-- `x[r]` of the state. -/
def State.reg (s : State) (r : Reg) : Byte := s.regs.get r

/-- `x[r] <- v` in the state. -/
def State.setReg (s : State) (r : Reg) (v : Byte) : State := s.setRegs (s.regs.set r v)

/-- A pair of the state. -/
def State.pair (s : State) (rp : Pair) : Word := s.regs.pair rp

/-- Writes a pair of the state. -/
def State.setPair (s : State) (rp : Pair) (v : Word) : State := s.setRegs (s.regs.setPair rp v)

/-- `HL` (R10), the address of the operand M (R17). -/
def State.hl (s : State) : Word := s.pair .hl

/-- The operand of INX, DCX and DAD: a pair, or SP under code 11 (R75). -/
def State.regPair (s : State) : RegPair → Word
  | .bc => s.pair .bc
  | .de => s.pair .de
  | .hl => s.pair .hl
  | .sp => s.sp

/-- The destination of LXI, INX and DCX: a pair, or SP under code 11 (R75). -/
def State.setRegPair (s : State) (rp : RegPair) (v : Word) : State :=
  match rp with
  | .bc => s.setPair .bc v
  | .de => s.setPair .de v
  | .hl => s.setPair .hl v
  | .sp => s.setSp v

/-- The address in the pointer pair of LDAX and STAX (R75). -/
def State.ptr (s : State) : PtrPair → Word
  | .bc => s.pair .bc
  | .de => s.pair .de

/-- The operand M as a source: the byte at HL (R17). -/
def readM (s : State) : Res Byte := read8 s s.hl

/-- The operand M as a destination. -/
def writeM (v : Byte) (s : State) : Res State := write8 s.hl v s

end Sys2Proof.Machine
end

