-- ==== Sys2Proof/Machine/Flags.lean ====
section
/-! DEFINITION. Every flag computation: parity, the status byte, the add and subtract cores, the logical core,
increment and decrement, the decimal correction, and the conditions (10_state.md R29 to R35; 41_arithmetic.md R120 to
R122, R138 to R145; 42_logical_rotate.md R160; 43_branch.md R181). -/

namespace Sys2Proof.Machine

/-- The number of set bits of a byte. -/
def setBits (b : Byte) : Nat := (List.range 8).countP b.getLsbD

/-- `parity_even(b)`: the number of set bits is even (R31). -/
def parityEven (b : Byte) : Bool := setBits b % 2 == 0

/-- `SZP(r)` (R13): S, Z and P from a result, the other two flags as they were. -/
def Flags.szp (f : Flags) (r : Byte) : Flags :=
  { f with s := r.getLsbD 7, z := r == 0, p := parityEven r }

/-- The XOR technique: bit 4 of `a XOR n XOR r`, the carry or borrow out of bit 3 (R120, R121). -/
def halfCarry (a n r : Byte) : Bool := ((a ^^^ n ^^^ r) &&& 0x10#8) != 0

/-- The auxiliary carry of a subtract-type operation from its borrow out of bit 3, per `AC_SUB_MODE` (R122). -/
def subAc (mode : AcMode) (hb : Bool) : Bool :=
  match mode with
  | .source => hb
  | .intel => !hb

/-! ### The status byte (R33, R34) -/

/-- Bit `i` of a byte set or clear. -/
def bitAt (i : Nat) (v : Bool) : Byte := (if v then 1#8 else 0#8) <<< i

/-- `to_status_byte()`: `{S, Z, 0, AC, 0, P, 1, CY}` (R33). -/
def Flags.pack (f : Flags) : Byte :=
  bitAt 7 f.s ||| bitAt 6 f.z ||| bitAt 4 f.ac ||| bitAt 2 f.p ||| 0x02#8 ||| bitAt 0 f.cy

/-- `from_status_byte(b)`: bits 5, 3 and 1 are ignored (R34). -/
def Flags.unpack (b : Byte) : Flags where
  s := b.getLsbD 7
  z := b.getLsbD 6
  ac := b.getLsbD 4
  p := b.getLsbD 2
  cy := b.getLsbD 0

/-! ### The arithmetic core (R120, R121) -/

/-- The result and flags of `a + n + cin` (R120). -/
def addCore (a n : Byte) (cin : Bool) (f : Flags) : Byte × Flags :=
  let w := a.toNat + n.toNat + cin.toNat
  let r := BitVec.ofNat 8 w
  (r, { f.szp r with cy := decide (w > 0xFF), ac := halfCarry a n r })

/-- The result and flags of `a - n - cin` (R121). -/
def subCore (mode : AcMode) (a n : Byte) (cin : Bool) (f : Flags) : Byte × Flags :=
  let r := a - n - BitVec.ofNat 8 cin.toNat
  (r, { f.szp r with cy := decide (a.toNat < n.toNat + cin.toNat), ac := subAc mode (halfCarry a n r) })

/-- `accumulator_add(n, cin)` (R120). -/
def accumulatorAdd (n : Byte) (cin : Bool) (s : State) : State :=
  let r := addCore (s.reg .a) n cin s.flags
  (s.setReg .a r.1).setFlags r.2

/-- `accumulator_sub(n, cin)` (R121). -/
def accumulatorSub (n : Byte) (cin : Bool) (s : State) : State :=
  let r := subCore s.cfg.acSubMode (s.reg .a) n cin s.flags
  (s.setReg .a r.1).setFlags r.2

/-- `accumulator_sub(n, 0, write = false)`, the compare (R121, R135). -/
def accumulatorCompare (n : Byte) (s : State) : State :=
  s.setFlags (subCore s.cfg.acSubMode (s.reg .a) n false s.flags).2

/-! ### Increment and decrement (R138 to R141) -/

/-- The result and flags of INR: CY is not touched (R138). -/
def incCore (v : Byte) (f : Flags) : Byte × Flags :=
  let r := v + 1
  (r, { f.szp r with ac := halfCarry v 1 r })

/-- The result and flags of DCR: CY is not touched (R140). -/
def decCore (mode : AcMode) (v : Byte) (f : Flags) : Byte × Flags :=
  let r := v - 1
  (r, { f.szp r with ac := subAc mode (halfCarry v 1 r) })

/-! ### The logical core (R160) -/

/-- The three logical operations. -/
inductive LogicOp where
  | and
  | xor
  | or
  deriving DecidableEq, Repr

/-- `a op n`. -/
def LogicOp.apply : LogicOp → Byte → Byte → Byte
  | .and, a, n => a &&& n
  | .xor, a, n => a ^^^ n
  | .or, a, n => a ||| n

/-- The auxiliary carry of the logical group, per `AC_ANA_MODE` (R160). -/
def logicAc (mode : AcMode) (op : LogicOp) (a n : Byte) : Bool :=
  match op, mode with
  | .and, .intel => (a ||| n).getLsbD 3
  | _, _ => false

/-- `logic(op, n)` (R160). -/
def logic (op : LogicOp) (n : Byte) (s : State) : State :=
  let a := s.reg .a
  let r := op.apply a n
  (s.setReg .a r).setFlags { s.flags.szp r with cy := false, ac := logicAc s.cfg.acAnaMode op a n }

/-! ### Decimal adjust (R145) -/

/-- The low step of DAA, from the original low nibble: whether 0x06 is added. -/
def daaLow (a : Byte) (f : Flags) : Bool := decide (a.toNat % 16 > 9) || f.ac

/-- The high step of DAA, from the original nibbles (90_conflicts.md C8): whether 0x60 is added, and `hic`. -/
def daaHigh (a : Byte) (f : Flags) : Bool :=
  decide (a.toNat / 16 > 9) || f.cy || (decide (a.toNat / 16 = 9) && decide (a.toNat % 16 > 9))

/-- The correction DAA adds. -/
def daaCorrection (a : Byte) (f : Flags) : Byte :=
  (if daaLow a f then 0x06#8 else 0#8) ||| (if daaHigh a f then 0x60#8 else 0#8)

/-- DAA without its `PC <- next`: the correction goes through `accumulator_add`, then CY is set (R145). -/
def decimalAdjust (s : State) : State :=
  let a := s.reg .a
  let t := accumulatorAdd (daaCorrection a s.flags) false s
  t.setFlags { t.flags with cy := daaHigh a s.flags || t.flags.cy }

/-! ### Conditions (R76, R181) -/

/-- `cond(ccc)`. -/
def condHolds (cc : Cond) (f : Flags) : Bool :=
  match cc with
  | .nz => !f.z
  | .z => f.z
  | .nc => !f.cy
  | .c => f.cy
  | .po => !f.p
  | .pe => f.p
  | .p => !f.s
  | .m => f.s

end Sys2Proof.Machine
end

