-- ==== Sys2Proof/Machine/Arithmetic.lean ====
section
/-! DEFINITION. The arithmetic group (spec 41_arithmetic.md R120 to R146). Every instruction is sequential. -/

namespace Sys2Proof.Machine

/-! ### Add (R123 to R128) -/

/-- ADD r (R123). -/
def execAddR (r : Reg) (s : State) : Res State := .next ((accumulatorAdd (s.reg r) false s).advance 1)

/-- ADD M (R124). -/
def execAddM (s : State) : Res State :=
  andThen (readM s) fun n => .next ((accumulatorAdd n false s).advance 1)

/-- ADI d8 (R125). -/
def execAdi (d8 : Byte) (s : State) : Res State := .next ((accumulatorAdd d8 false s).advance 2)

/-- ADC r (R126): CY is read before any flag is written. -/
def execAdcR (r : Reg) (s : State) : Res State := .next ((accumulatorAdd (s.reg r) s.flags.cy s).advance 1)

/-- ADC M (R127). -/
def execAdcM (s : State) : Res State :=
  andThen (readM s) fun n => .next ((accumulatorAdd n s.flags.cy s).advance 1)

/-- ACI d8 (R128). -/
def execAci (d8 : Byte) (s : State) : Res State := .next ((accumulatorAdd d8 s.flags.cy s).advance 2)

/-! ### Subtract (R129 to R134) -/

/-- SUB r (R129). -/
def execSubR (r : Reg) (s : State) : Res State := .next ((accumulatorSub (s.reg r) false s).advance 1)

/-- SUB M (R130). -/
def execSubM (s : State) : Res State :=
  andThen (readM s) fun n => .next ((accumulatorSub n false s).advance 1)

/-- SUI d8 (R131). -/
def execSui (d8 : Byte) (s : State) : Res State := .next ((accumulatorSub d8 false s).advance 2)

/-- SBB r (R132). -/
def execSbbR (r : Reg) (s : State) : Res State := .next ((accumulatorSub (s.reg r) s.flags.cy s).advance 1)

/-- SBB M (R133). -/
def execSbbM (s : State) : Res State :=
  andThen (readM s) fun n => .next ((accumulatorSub n s.flags.cy s).advance 1)

/-- SBI d8 (R134). -/
def execSbi (d8 : Byte) (s : State) : Res State := .next ((accumulatorSub d8 s.flags.cy s).advance 2)

/-! ### Compare (R135 to R137) -/

/-- CMP r (R135). -/
def execCmpR (r : Reg) (s : State) : Res State := .next ((accumulatorCompare (s.reg r) s).advance 1)

/-- CMP M (R136). -/
def execCmpM (s : State) : Res State :=
  andThen (readM s) fun n => .next ((accumulatorCompare n s).advance 1)

/-- CPI d8 (R137). -/
def execCpi (d8 : Byte) (s : State) : Res State := .next ((accumulatorCompare d8 s).advance 2)

/-! ### Increment and decrement (R138 to R143) -/

/-- INR r (R138). -/
def execInrR (r : Reg) (s : State) : Res State :=
  let x := incCore (s.reg r) s.flags
  .next (((s.setReg r x.1).setFlags x.2).advance 1)

/-- INR M (R139): read, then write. -/
def execInrM (s : State) : Res State :=
  andThen (readM s) fun v =>
  let x := incCore v s.flags
  andThen (writeM x.1 s) fun t => .next ((t.setFlags x.2).advance 1)

/-- DCR r (R140). -/
def execDcrR (r : Reg) (s : State) : Res State :=
  let x := decCore s.cfg.acSubMode (s.reg r) s.flags
  .next (((s.setReg r x.1).setFlags x.2).advance 1)

/-- DCR M (R141): read, then write. -/
def execDcrM (s : State) : Res State :=
  andThen (readM s) fun v =>
  let x := decCore s.cfg.acSubMode v s.flags
  andThen (writeM x.1 s) fun t => .next ((t.setFlags x.2).advance 1)

/-- INX rp (R142): no flag. -/
def execInx (rp : RegPair) (s : State) : Res State := .next ((s.setRegPair rp (s.regPair rp + 1)).advance 1)

/-- DCX rp (R143): no flag. -/
def execDcx (rp : RegPair) (s : State) : Res State := .next ((s.setRegPair rp (s.regPair rp - 1)).advance 1)

/-! ### 16-bit add and decimal adjust (R144, R145) -/

/-- DAD rp (R144): CY from the 16-bit overflow, no other flag. -/
def execDad (rp : RegPair) (s : State) : Res State :=
  let w := s.hl.toNat + (s.regPair rp).toNat
  .next (((s.setPair .hl (BitVec.ofNat 16 w)).setFlags { s.flags with cy := decide (w > 0xFFFF) }).advance 1)

/-- DAA (R145). -/
def execDaa (s : State) : Res State := .next ((decimalAdjust s).advance 1)

end Sys2Proof.Machine
end

