-- ==== Sys2Proof/Machine/Branch.lean ====
section
/-! DEFINITION. The branch group (spec 43_branch.md R180 to R190). The meaning writes PC itself, and nothing is added
to it after (R91). No branch writes a flag. -/

namespace Sys2Proof.Machine

/-- JMP a16 (R182). -/
def execJmp (a16 : Word) (s : State) : Res State := .next (s.setPc a16)

/-- Jcc a16 (R183). -/
def execJcc (cc : Cond) (a16 : Word) (s : State) : Res State :=
  if condHolds cc s.flags then .next (s.setPc a16) else .next (s.advance 3)

/-- Pushes the address after an instruction of `len` bytes and jumps: CALL, Ccc and RST (R184, R185, R188). -/
def callTo (len : Nat) (target : Word) (s : State) : Res State :=
  andThen (push16 (s.nextPc len) s) fun t => .next (t.setPc target)

/-- CALL a16 (R184). -/
def execCall (a16 : Word) (s : State) : Res State := callTo 3 a16 s

/-- Ccc a16 (R185). -/
def execCcc (cc : Cond) (a16 : Word) (s : State) : Res State :=
  if condHolds cc s.flags then callTo 3 a16 s else .next (s.advance 3)

/-- RET (R186). -/
def execRet (s : State) : Res State := returnFromCall s

/-- Rcc (R187). -/
def execRcc (cc : Cond) (s : State) : Res State :=
  if condHolds cc s.flags then returnFromCall s else .next (s.advance 1)

/-- RST n (R188): the vector is `8·n`. -/
def execRst (n : Nat) (s : State) : Res State := callTo 1 (BitVec.ofNat 16 (8 * n)) s

/-- PCHL (R189). -/
def execPchl (s : State) : Res State := .next (s.setPc s.hl)

end Sys2Proof.Machine
end

