-- ==== Sys2Proof/Machine/DataTransfer.lean ====
section
/-! DEFINITION. The data-transfer group (spec 40_data_transfer.md R99 to R112). No instruction of it writes a flag;
every one is sequential. -/

namespace Sys2Proof.Machine

/-- MOV r1,r2 (R100). -/
def execMovRR (r1 r2 : Reg) (s : State) : Res State := .next ((s.setReg r1 (s.reg r2)).advance 1)

/-- MOV r,M (R101): HL is read before `r` is written. -/
def execMovRM (r : Reg) (s : State) : Res State :=
  andThen (readM s) fun v => .next ((s.setReg r v).advance 1)

/-- MOV M,r (R102). -/
def execMovMR (r : Reg) (s : State) : Res State :=
  andThen (writeM (s.reg r) s) fun t => .next (t.advance 1)

/-- MVI r,d8 (R103). -/
def execMviR (r : Reg) (d8 : Byte) (s : State) : Res State := .next ((s.setReg r d8).advance 2)

/-- MVI M,d8 (R104). -/
def execMviM (d8 : Byte) (s : State) : Res State :=
  andThen (writeM d8 s) fun t => .next (t.advance 2)

/-- LXI rp,d16 (R105). -/
def execLxi (rp : RegPair) (d16 : Word) (s : State) : Res State := .next ((s.setRegPair rp d16).advance 3)

/-- LDA a16 (R106). -/
def execLda (a16 : Word) (s : State) : Res State :=
  andThen (read8 s a16) fun v => .next ((s.setReg .a v).advance 3)

/-- STA a16 (R107). -/
def execSta (a16 : Word) (s : State) : Res State :=
  andThen (write8 a16 (s.reg .a) s) fun t => .next (t.advance 3)

/-- LHLD a16 (R108): L from a16, H from a16+1. -/
def execLhld (a16 : Word) (s : State) : Res State :=
  andThen (read16 s a16) fun v => .next ((s.setPair .hl v).advance 3)

/-- SHLD a16 (R109): L at a16, H at a16+1. -/
def execShld (a16 : Word) (s : State) : Res State :=
  andThen (write16 a16 s.hl s) fun t => .next (t.advance 3)

/-- LDAX rp (R110). -/
def execLdax (p : PtrPair) (s : State) : Res State :=
  andThen (read8 s (s.ptr p)) fun v => .next ((s.setReg .a v).advance 1)

/-- STAX rp (R111). -/
def execStax (p : PtrPair) (s : State) : Res State :=
  andThen (write8 (s.ptr p) (s.reg .a) s) fun t => .next (t.advance 1)

/-- XCHG (R112): both pairs are read before either is written (R266). -/
def execXchg (s : State) : Res State :=
  .next (((s.setPair .hl (s.pair .de)).setPair .de s.hl).advance 1)

end Sys2Proof.Machine
end

