-- ==== Sys2Proof/Machine/Devices.lean ====
section
/-! DEFINITION. The port devices behind `INPUT` and `OUTPUT` (spec 60_exceptions.md R240 to R246, R248), and the two
primitives `In` and `Out` (00_scope.md R11). -/

namespace Sys2Proof.Machine

/-- Writes the port devices. -/
def State.setDev (s : State) (v : Devices) : State := { s with dev := v }

/-- The shift-result port, IN 3 (R242): `trunc8(shift >> (8 - shift_off))`. -/
def Devices.shiftResult (v : Devices) : Byte := (v.shift >>> (8 - v.shiftOff.toNat)).setWidth 8

/-- The shift-data port, OUT 4 (R240): `shift <- {v, shift[15:8]}`. -/
def Devices.shiftIn (d : Devices) (v : Byte) : Devices := { d with shift := joinBytes v (hiByte d.shift) }

/-- The shift-offset port, OUT 2 (R241): `shift_off <- v[2:0]`. -/
def Devices.setOffset (d : Devices) (v : Byte) : Devices := { d with shiftOff := v.setWidth 3 }

/-- The sound events of a write to a bank (R243): one for each bit that is set now and was not in the latch, in
increasing order of the bit. -/
def soundEvents (bank : SoundBank) (latch v : Byte) : List HostEvent :=
  ((List.range 8).filter fun i => v.getLsbD i && !latch.getLsbD i).map (.sound bank)

/-- The device side of `INPUT(port)` in the arcade map: what a port returns, or `none` for the control ports 0, 1 and 2,
which the host draws (R245, R246). A port not in the map reads 0x00. -/
def Devices.portValue (d : Devices) (port : Byte) : Option Byte :=
  match port.toNat with
  | 0 => none
  | 1 => none
  | 2 => none
  | 3 => some d.shiftResult
  | _ => some 0x00

/-- The device side of `OUTPUT(port, v)` in the arcade map (R246): the devices after it and the sound events. A port not
in the map ignores the write. -/
def Devices.portWrite (d : Devices) (port v : Byte) : Devices × List HostEvent :=
  match port.toNat with
  | 2 => (d.setOffset v, [])
  | 3 => ({ d with sound1 := v }, soundEvents .one d.sound1 v)
  | 4 => (d.shiftIn v, [])
  | 5 => ({ d with sound2 := v }, soundEvents .two d.sound2 v)
  | 6 => ({ d with watchdog := v }, [])
  | _ => (d, [])

/-- What `INPUT(port)` returns, and the state after the call (R6, R210, R245). -/
def inputCall (port : Byte) (s : State) : Byte × State :=
  match s.cfg.ports with
  | .arcade =>
    match s.dev.portValue port with
    | some v => (v, s)
    | none => s.draw port
  | .external => s.draw port

/-- `In(port)`: one call of `INPUT`, which the host sees (R11, R60). -/
def portIn (port : Byte) (s : State) : Byte × State :=
  let r := inputCall port s
  (r.1, r.2.emit [.input port r.1])

/-- `Out(port, v)`: one call of `OUTPUT`, which the host sees, with the events the devices emit (R11, R60). -/
def portOut (port v : Byte) (s : State) : State :=
  match s.cfg.ports with
  | .arcade => (s.setDev (s.dev.portWrite port v).1).emit (.output port v :: (s.dev.portWrite port v).2)
  | .external => s.emit [.output port v]

end Sys2Proof.Machine
end

