-- ==== Sys2Proof/Machine/IoSpecial.lean ====
section
/-! DEFINITION. The I/O and special group (spec 45_io_special.md R210 to R216). Every instruction is sequential. -/

namespace Sys2Proof.Machine

/-- IN p8 (R210): the byte goes to A unchanged. -/
def execIn (p8 : Byte) (s : State) : Res State :=
  .next (((portIn p8 s).2.setReg .a (portIn p8 s).1).advance 2)

/-- OUT p8 (R211). -/
def execOut (p8 : Byte) (s : State) : Res State := .next ((portOut p8 (s.reg .a) s).advance 2)

/-- EI (R212): at once, with no delay (R268). -/
def execEi (s : State) : Res State := .next ((s.setIe true).advance 1)

/-- DI (R213). -/
def execDi (s : State) : Res State := .next ((s.setIe false).advance 1)

/-- HLT (R214): PC is the address after it while the CPU is halted. -/
def execHlt (s : State) : Res State := .next ((s.setHalted true).advance 1)

/-- NOP (R215). -/
def execNop (s : State) : Res State := .next (s.advance 1)

end Sys2Proof.Machine
end

