-- ==== Sys2Proof/Machine/Logical.lean ====
section
/-! DEFINITION. The logical, rotate and carry group (spec 42_logical_rotate.md R160 to R176). Every instruction is
sequential. -/

namespace Sys2Proof.Machine

/-! ### Logical operations (R161 to R169) -/

/-- ANA r (R161). -/
def execAnaR (r : Reg) (s : State) : Res State := .next ((logic .and (s.reg r) s).advance 1)

/-- ANA M (R162). -/
def execAnaM (s : State) : Res State := andThen (readM s) fun n => .next ((logic .and n s).advance 1)

/-- ANI d8 (R163). -/
def execAni (d8 : Byte) (s : State) : Res State := .next ((logic .and d8 s).advance 2)

/-- XRA r (R164). -/
def execXraR (r : Reg) (s : State) : Res State := .next ((logic .xor (s.reg r) s).advance 1)

/-- XRA M (R165). -/
def execXraM (s : State) : Res State := andThen (readM s) fun n => .next ((logic .xor n s).advance 1)

/-- XRI d8 (R166). -/
def execXri (d8 : Byte) (s : State) : Res State := .next ((logic .xor d8 s).advance 2)

/-- ORA r (R167). -/
def execOraR (r : Reg) (s : State) : Res State := .next ((logic .or (s.reg r) s).advance 1)

/-- ORA M (R168). -/
def execOraM (s : State) : Res State := andThen (readM s) fun n => .next ((logic .or n s).advance 1)

/-- ORI d8 (R169). -/
def execOri (d8 : Byte) (s : State) : Res State := .next ((logic .or d8 s).advance 2)

/-! ### Rotates (R170 to R173): only CY of the flags -/

/-- A left by one bit, `bit` entering at bit 0. -/
def shiftInLow (a : Byte) (bit : Bool) : Byte := (a <<< 1) ||| bitAt 0 bit

/-- A right by one bit, `bit` entering at bit 7. -/
def shiftInHigh (a : Byte) (bit : Bool) : Byte := (a >>> 1) ||| bitAt 7 bit

/-- Writes A and CY, the only state a rotate writes. -/
def rotated (a : Byte) (cy : Bool) (s : State) : State :=
  (s.setReg .a a).setFlags { s.flags with cy := cy }

/-- RLC (R170): `{a[6:0], a[7]}`, CY from a[7]. -/
def execRlc (s : State) : Res State :=
  let a := s.reg .a
  .next ((rotated (shiftInLow a (a.getLsbD 7)) (a.getLsbD 7) s).advance 1)

/-- RRC (R171): `{a[0], a[7:1]}`, CY from a[0]. -/
def execRrc (s : State) : Res State :=
  let a := s.reg .a
  .next ((rotated (shiftInHigh a (a.getLsbD 0)) (a.getLsbD 0) s).advance 1)

/-- RAL (R172): the old CY enters at bit 0, CY from a[7]. -/
def execRal (s : State) : Res State :=
  let a := s.reg .a
  .next ((rotated (shiftInLow a s.flags.cy) (a.getLsbD 7) s).advance 1)

/-- RAR (R173): the old CY enters at bit 7, CY from a[0]. -/
def execRar (s : State) : Res State :=
  let a := s.reg .a
  .next ((rotated (shiftInHigh a s.flags.cy) (a.getLsbD 0) s).advance 1)

/-! ### Complement and carry (R174 to R176) -/

/-- CMA (R174): no flag. -/
def execCma (s : State) : Res State := .next ((s.setReg .a (s.reg .a ^^^ 0xFF#8)).advance 1)

/-- STC (R175). -/
def execStc (s : State) : Res State := .next ((s.setFlags { s.flags with cy := true }).advance 1)

/-- CMC (R176). -/
def execCmc (s : State) : Res State := .next ((s.setFlags { s.flags with cy := !s.flags.cy }).advance 1)

end Sys2Proof.Machine
end

