-- ==== Sys2Proof/Machine/Stack.lean ====
section
/-! DEFINITION. The stack group (spec 44_stack.md R200 to R207). Every instruction is sequential. -/

namespace Sys2Proof.Machine

/-- PUSH rp (R201). -/
def execPushRp (rp : Pair) (s : State) : Res State :=
  andThen (push16 (s.pair rp) s) fun t => .next (t.advance 1)

/-- PUSH PSW (R202): A is the high byte, the status byte the low one. -/
def execPushPsw (s : State) : Res State :=
  andThen (push16 (joinBytes (s.reg .a) s.flags.pack) s) fun t => .next (t.advance 1)

/-- POP rp (R203). -/
def execPopRp (rp : Pair) (s : State) : Res State :=
  andThen (pop16 s) fun r => .next ((r.2.setPair rp r.1).advance 1)

/-- POP PSW (R204): all five flags come from the popped byte. -/
def execPopPsw (s : State) : Res State :=
  andThen (pop16 s) fun r =>
    .next (((r.2.setReg .a (hiByte r.1)).setFlags (Flags.unpack (loByte r.1))).advance 1)

/-- XTHL (R205): the word at SP is read, then HL is written there, then the word goes to HL. SP stays. -/
def execXthl (s : State) : Res State :=
  andThen (read16 s s.sp) fun v =>
  andThen (write16 s.sp s.hl s) fun t => .next ((t.setPair .hl v).advance 1)

/-- SPHL (R206). -/
def execSphl (s : State) : Res State := .next ((s.setSp s.hl).advance 1)

end Sys2Proof.Machine
end

