-- ==== Sys2Proof/Machine/Dispatch.lean ====
section
/-! DEFINITION. The dispatch: one arm per instruction, in the order of spec/opcode_table.json, each one direct call of
that instruction's meaning (spec 30_encoding.md R82, R90). -/

namespace Sys2Proof.Machine

/-- The handler of an instruction, run with PC still at its opcode (R79, R90). It charges no cycles: the Step does. -/
def exec (i : Instr) (s : State) : Host.Outcome State Fault Refusal :=
  match i with
  | .nop => Sys2Proof.Machine.execNop s
  | .lxi rp d16 => Sys2Proof.Machine.execLxi rp d16 s
  | .stax p => Sys2Proof.Machine.execStax p s
  | .inx rp => Sys2Proof.Machine.execInx rp s
  | .inrR r => Sys2Proof.Machine.execInrR r s
  | .dcrR r => Sys2Proof.Machine.execDcrR r s
  | .mviR r d8 => Sys2Proof.Machine.execMviR r d8 s
  | .rlc => Sys2Proof.Machine.execRlc s
  | .dad rp => Sys2Proof.Machine.execDad rp s
  | .ldax p => Sys2Proof.Machine.execLdax p s
  | .dcx rp => Sys2Proof.Machine.execDcx rp s
  | .rrc => Sys2Proof.Machine.execRrc s
  | .ral => Sys2Proof.Machine.execRal s
  | .rar => Sys2Proof.Machine.execRar s
  | .shld a16 => Sys2Proof.Machine.execShld a16 s
  | .daa => Sys2Proof.Machine.execDaa s
  | .lhld a16 => Sys2Proof.Machine.execLhld a16 s
  | .cma => Sys2Proof.Machine.execCma s
  | .sta a16 => Sys2Proof.Machine.execSta a16 s
  | .inrM => Sys2Proof.Machine.execInrM s
  | .dcrM => Sys2Proof.Machine.execDcrM s
  | .mviM d8 => Sys2Proof.Machine.execMviM d8 s
  | .stc => Sys2Proof.Machine.execStc s
  | .lda a16 => Sys2Proof.Machine.execLda a16 s
  | .cmc => Sys2Proof.Machine.execCmc s
  | .movRR r1 r2 => Sys2Proof.Machine.execMovRR r1 r2 s
  | .movRM r => Sys2Proof.Machine.execMovRM r s
  | .movMR r => Sys2Proof.Machine.execMovMR r s
  | .hlt => Sys2Proof.Machine.execHlt s
  | .addR r => Sys2Proof.Machine.execAddR r s
  | .addM => Sys2Proof.Machine.execAddM s
  | .adcR r => Sys2Proof.Machine.execAdcR r s
  | .adcM => Sys2Proof.Machine.execAdcM s
  | .subR r => Sys2Proof.Machine.execSubR r s
  | .subM => Sys2Proof.Machine.execSubM s
  | .sbbR r => Sys2Proof.Machine.execSbbR r s
  | .sbbM => Sys2Proof.Machine.execSbbM s
  | .anaR r => Sys2Proof.Machine.execAnaR r s
  | .anaM => Sys2Proof.Machine.execAnaM s
  | .xraR r => Sys2Proof.Machine.execXraR r s
  | .xraM => Sys2Proof.Machine.execXraM s
  | .oraR r => Sys2Proof.Machine.execOraR r s
  | .oraM => Sys2Proof.Machine.execOraM s
  | .cmpR r => Sys2Proof.Machine.execCmpR r s
  | .cmpM => Sys2Proof.Machine.execCmpM s
  | .rcc cc => Sys2Proof.Machine.execRcc cc s
  | .popRp rp => Sys2Proof.Machine.execPopRp rp s
  | .jcc cc a16 => Sys2Proof.Machine.execJcc cc a16 s
  | .jmp a16 => Sys2Proof.Machine.execJmp a16 s
  | .ccc cc a16 => Sys2Proof.Machine.execCcc cc a16 s
  | .pushRp rp => Sys2Proof.Machine.execPushRp rp s
  | .adi d8 => Sys2Proof.Machine.execAdi d8 s
  | .rst n => Sys2Proof.Machine.execRst n s
  | .ret => Sys2Proof.Machine.execRet s
  | .call a16 => Sys2Proof.Machine.execCall a16 s
  | .aci d8 => Sys2Proof.Machine.execAci d8 s
  | .outP p8 => Sys2Proof.Machine.execOut p8 s
  | .sui d8 => Sys2Proof.Machine.execSui d8 s
  | .inP p8 => Sys2Proof.Machine.execIn p8 s
  | .sbi d8 => Sys2Proof.Machine.execSbi d8 s
  | .xthl => Sys2Proof.Machine.execXthl s
  | .ani d8 => Sys2Proof.Machine.execAni d8 s
  | .pchl => Sys2Proof.Machine.execPchl s
  | .xchg => Sys2Proof.Machine.execXchg s
  | .xri d8 => Sys2Proof.Machine.execXri d8 s
  | .popPsw => Sys2Proof.Machine.execPopPsw s
  | .di => Sys2Proof.Machine.execDi s
  | .pushPsw => Sys2Proof.Machine.execPushPsw s
  | .ori d8 => Sys2Proof.Machine.execOri d8 s
  | .sphl => Sys2Proof.Machine.execSphl s
  | .ei => Sys2Proof.Machine.execEi s
  | .cpi d8 => Sys2Proof.Machine.execCpi d8 s

end Sys2Proof.Machine
end

