-- ==== Sys2Proof/Machine/Timing.lean ====
section
/-! DEFINITION. The cycle costs (spec 70_reset_and_hazards.md R272, R273). No effect on a register, a flag or memory
depends on them; they place the delivery points. -/

namespace Sys2Proof.Machine

/-- An opcode with one fixed cost. -/
def fixedCost (n : Nat) : CycleCost := { taken := n, notTaken := n }

/-- The table of R272. -/
def standardCost : Instr → CycleCost
  | .nop => fixedCost 4
  | .lxi _ _ => fixedCost 10
  | .stax _ => fixedCost 7
  | .inx _ => fixedCost 5
  | .inrR _ => fixedCost 5
  | .dcrR _ => fixedCost 5
  | .mviR _ _ => fixedCost 7
  | .rlc => fixedCost 4
  | .dad _ => fixedCost 10
  | .ldax _ => fixedCost 7
  | .dcx _ => fixedCost 5
  | .rrc => fixedCost 4
  | .ral => fixedCost 4
  | .rar => fixedCost 4
  | .shld _ => fixedCost 16
  | .daa => fixedCost 4
  | .lhld _ => fixedCost 16
  | .cma => fixedCost 4
  | .sta _ => fixedCost 13
  | .inrM => fixedCost 10
  | .dcrM => fixedCost 10
  | .mviM _ => fixedCost 10
  | .stc => fixedCost 4
  | .lda _ => fixedCost 13
  | .cmc => fixedCost 4
  | .movRR _ _ => fixedCost 5
  | .movRM _ => fixedCost 7
  | .movMR _ => fixedCost 7
  | .hlt => fixedCost 7
  | .addR _ => fixedCost 4
  | .addM => fixedCost 7
  | .adcR _ => fixedCost 4
  | .adcM => fixedCost 7
  | .subR _ => fixedCost 4
  | .subM => fixedCost 7
  | .sbbR _ => fixedCost 4
  | .sbbM => fixedCost 7
  | .anaR _ => fixedCost 4
  | .anaM => fixedCost 7
  | .xraR _ => fixedCost 4
  | .xraM => fixedCost 7
  | .oraR _ => fixedCost 4
  | .oraM => fixedCost 7
  | .cmpR _ => fixedCost 4
  | .cmpM => fixedCost 7
  | .rcc _ => { taken := 11, notTaken := 5 }
  | .popRp _ => fixedCost 10
  | .jcc _ _ => fixedCost 10
  | .jmp _ => fixedCost 10
  | .ccc _ _ => { taken := 17, notTaken := 11 }
  | .pushRp _ => fixedCost 11
  | .adi _ => fixedCost 7
  | .rst _ => fixedCost 11
  | .ret => fixedCost 10
  | .call _ => fixedCost 17
  | .aci _ => fixedCost 7
  | .outP _ => fixedCost 10
  | .sui _ => fixedCost 7
  | .inP _ => fixedCost 10
  | .sbi _ => fixedCost 7
  | .xthl => fixedCost 18
  | .ani _ => fixedCost 7
  | .pchl => fixedCost 5
  | .xchg => fixedCost 4
  | .xri _ => fixedCost 7
  | .popPsw => fixedCost 10
  | .di => fixedCost 4
  | .pushPsw => fixedCost 11
  | .ori _ => fixedCost 7
  | .sphl => fixedCost 5
  | .ei => fixedCost 4
  | .cpi _ => fixedCost 7

/-- The row of `CYCLE_TABLE` for an instruction (R6, R272). -/
def cycleRow (cfg : Config) (i : Instr) : CycleCost :=
  match cfg.cycleTable with
  | .standard => standardCost i
  | .rows rows => rows.getD i.opcode.toNat (fixedCost 0)

/-- Whether the instruction's branch is taken, from the flags it starts with; the instructions without a condition have
one cost, and count as taken (R90, R273). -/
def taken (i : Instr) (f : Flags) : Bool :=
  match i with
  | .jcc cc _ => condHolds cc f
  | .ccc cc _ => condHolds cc f
  | .rcc cc => condHolds cc f
  | .nop | .lxi _ _ | .stax _ | .inx _ | .inrR _ | .dcrR _ | .mviR _ _ | .rlc | .dad _ | .ldax _ | .dcx _
  | .rrc | .ral | .rar | .shld _ | .daa | .lhld _ | .cma | .sta _ | .inrM | .dcrM | .mviM _ | .stc | .lda _
  | .cmc | .movRR _ _ | .movRM _ | .movMR _ | .hlt | .addR _ | .addM | .adcR _ | .adcM | .subR _ | .subM
  | .sbbR _ | .sbbM | .anaR _ | .anaM | .xraR _ | .xraM | .oraR _ | .oraM | .cmpR _ | .cmpM | .popRp _
  | .jmp _ | .pushRp _ | .adi _ | .rst _ | .ret | .call _ | .aci _ | .outP _ | .sui _ | .inP _ | .sbi _
  | .xthl | .ani _ | .pchl | .xchg | .xri _ | .popPsw | .di | .pushPsw | .ori _ | .sphl | .ei | .cpi _ => true

/-- `cost(op, taken)` (R90). -/
def cycleCost (cfg : Config) (i : Instr) (f : Flags) : Nat :=
  if taken i f then (cycleRow cfg i).taken else (cycleRow cfg i).notTaken

end Sys2Proof.Machine
end

