-- ==== Sys2Proof/Machine/Cycle.lean ====
section
/-! DEFINITION. The Step cycle of the CPU (spec 30_encoding.md R90 to R95), the frame synchronizer (60_exceptions.md
R230 to R236) and the conformance harness (70_reset_and_hazards.md R264). -/

namespace Sys2Proof.Machine

/-! ### The CPU's Step (R90) -/

/-- Fetches the instruction at PC: the opcode byte, then its operand bytes in ascending order (R69, R78). One of the
twelve opcodes without an instruction is refused before any other access (R222). -/
def fetch (s : State) : Res Instr :=
  andThen (read8 s s.pc) fun op =>
  match opcodeForm op with
  | .unsupported => .refused (.unsupportedOpcode op s.pc)
  | .one i => .next i
  | .two k => andThen (read8 s (s.pc + 1)) fun d8 => .next (k d8)
  | .three k =>
    andThen (read8 s (s.pc + 1)) fun lo =>
    andThen (read8 s (s.pc + 2)) fun hi => .next (k (joinBytes hi lo))

/-- The outcomes of a Step (R15): completed, with the cycles it charges; not running; or stopped. -/
inductive StepResult where
  | ok (cycles : Nat) (s : State)
  | notRunning
  | fault (f : Fault)
  | refused (r : Refusal)
  deriving DecidableEq, Repr

/-- Adds to the CPU's cycle count (R38). -/
def State.charge (c : Nat) (s : State) : State := { s with cyc := s.cyc + c }

/-- `Step()` (R90, R92). -/
def cpuStep (s : State) : StepResult :=
  if s.halted then .notRunning
  else
    match fetch s with
    | .fault f => .fault f
    | .refused r => .refused r
    | .next i =>
      match exec i s with
      | .fault f => .fault f
      | .refused r => .refused r
      | .next t => .ok (cycleCost s.cfg i s.flags) (t.charge (cycleCost s.cfg i s.flags))

/-! ### The frame synchronizer (R230) -/

/-- Writes the frame's cycle counter. -/
def State.setFc (s : State) (n : Nat) : State := { s with fc := n }

/-- The target of the burst the synchronizer is in (R230). -/
def burstTarget (s : State) : Nat :=
  match s.half with
  | .first => s.cfg.halfCycles
  | .second => s.cfg.frameCycles

/-- The address the alternator holds (R39). -/
def vectorAddress (s : State) : Word :=
  match s.nextVec with
  | .a => s.cfg.vecA
  | .b => s.cfg.vecB

/-- `next_vec <- VEC_B if next_vec = VEC_A else VEC_A` (R230, R233). -/
def VecSel.toggle : VecSel → VecSel
  | .a => .b
  | .b => .a

/-- The rest of a delivery point: the alternator toggles, and the frame goes on to its second burst, or it ends and
`FRAME_CYCLES` leave `fc` (R233, R234). -/
def endDelivery (s : State) : State :=
  match s.half with
  | .first => { s with nextVec := s.nextVec.toggle, half := .second }
  | .second =>
    { s with nextVec := s.nextVec.toggle, half := .first, fc := s.fc - s.cfg.frameCycles }

/-- `Deliver()` (R230, R233): `INT_CYCLES` are charged to `fc` only when the interrupt is accepted. -/
def deliver (s : State) : Res State :=
  andThen (interrupt (vectorAddress s) s) fun d =>
  match d with
  | .accepted t => .next (endDelivery (t.setFc (t.fc + t.cfg.intCycles)))
  | .rejected => .next (endDelivery s)

/-- One move of the synchronizer (R230): a Step while the burst's target is not reached, with its cycles added to `fc`;
a halted CPU idles to the target (R232); at the target, the delivery point. -/
def synchronizerStep (s : State) : Res State :=
  if s.fc < burstTarget s then
    match cpuStep s with
    | .ok c t => .next (t.setFc (t.fc + c))
    | .notRunning => .next (s.setFc (burstTarget s))
    | .fault f => .fault f
    | .refused r => .refused r
  else deliver s

/-! ### The conformance harness (R264) -/

/-- The CP/M entry the harness intercepts. -/
def bdosEntry : Word := 0x0005#16

/-- The character that ends a printed string (R264). -/
def stringEnd : Byte := 0x24#8

/-- The bytes from `a` up to the terminator, which is not among them. With 65536 reads every address has been seen, so
running out of `fuel` means the loop of R264 never ends. -/
def stringAt (s : State) (start : Word) : Nat → Word → Res (List Byte)
  | 0, _ => .fault (.harnessPrintEndless start)
  | fuel + 1, a =>
    andThen (read8 s a) fun c =>
    if c = stringEnd then .next []
    else andThen (stringAt s start fuel (a + 1)) fun cs => .next (c :: cs)

/-- What the intercepted call prints: function 9 a string at DE, function 2 the character in E, any other nothing. -/
def harnessPrint (s : State) : Res (List Byte) :=
  match (s.reg .c).toNat with
  | 9 => stringAt s (s.pair .de) 65536 (s.pair .de)
  | 2 => .next [s.reg .e]
  | _ => .next []

/-- The intercept at 0x0005: print, then behave as RET with no cycles charged (R264). -/
def intercept (s : State) : Res State :=
  andThen (harnessPrint s) fun cs =>
  andThen (returnFromCall s) fun t => .next (t.emit (cs.map .print))

/-- One turn of the harness loop (R264). A halted CPU's Step changes nothing, and no interrupt revives it. -/
def harnessStep (s : State) : Res State :=
  if s.pc = bdosEntry then intercept s
  else if s.pc = 0 then .fault .harnessEnd
  else
    match cpuStep s with
    | .ok _ t => .next t
    | .notRunning => .next s
    | .fault f => .fault f
    | .refused r => .refused r

/-! ### The machine -/

/-- One move of the machine: of the synchronizer, or of the harness, whichever runs the CPU (R261 point 4). -/
def machineStep (s : State) : Res State :=
  match s.cfg.runner with
  | .synchronizer => synchronizerStep s
  | .harness => harnessStep s

/-! ### Placing an instruction where the next step fetches it -/

/-- Memory with bytes stored from PC on, whatever stands there. -/
def State.placeBytes (s : State) : List Byte → Word → State
  | [], _ => s
  | v :: vs, a => State.placeBytes { s with mem := s.mem.write a.toNat v } vs (a + 1)

/-- Makes the very next move a Step at PC: the CPU runs, the burst is not at its end, and PC is none of the two
addresses the harness acts on (log entry 15). -/
def State.readyToStep (s : State) : State :=
  { s with
    halted := false
    fc := if s.fc < burstTarget s then s.fc else 0
    pc :=
      match s.cfg.runner with
      | .synchronizer => s.pc
      | .harness => if s.pc = bdosEntry ∨ s.pc = 0 then 0x0100#16 else s.pc }

end Sys2Proof.Machine
end

