-- ==== Sys2Proof/Machine/Boot.lean ====
section
/-! DEFINITION. The start of a run (spec 70_reset_and_hazards.md R260 to R262): memory all 0x00, the image the host loads,
and then the state of R260. The loader is the host's; no step runs it. Then the verdict on a conformance run (R264). -/

namespace Sys2Proof.Machine

/-! ### The loader (R224, R261, R262) -/

/-- What the host's reader answers for a part of the image (R224). -/
inductive RomRead where
  | bytes (bs : List Byte)
  | failed (cause : String)
  deriving DecidableEq, Repr

/-- A part of a program image: its name, the address it goes to, the most bytes it may occupy from there on, and what
reading it gave (R262). -/
structure RomPart where
  name : String
  offset : Word
  room : Nat
  contents : RomRead
  deriving DecidableEq, Repr

/-- A host write of bytes from an address on. It charges no cycles (R262). -/
def loadBytes : List Byte → Word → State → Res State
  | [], _, s => .next s
  | v :: vs, a, s => andThen (write8 a v s) (loadBytes vs (a + 1))

/-- The cause the loader gives for a part with more bytes than its room (log entry 24). -/
def partTooLong : String := "longer than its room"

/-- Loads one part. A part that could not be read ends the start with `ROMLoadFailure` (R224), and so does one with
more bytes than its room (R262; log entry 24). -/
def loadPart (part : RomPart) (s : State) : Res State :=
  match part.contents with
  | .failed cause => .fault (.romLoadFailure part.name cause)
  | .bytes bs =>
    if bs.length ≤ part.room then loadBytes bs part.offset s else .fault (.romLoadFailure part.name partTooLong)

/-- Loads the parts in order. -/
def loadParts : List RomPart → State → Res State
  | [], s => .next s
  | part :: parts, s => andThen (loadPart part s) (loadParts parts)

/-- The start of a run with the given parameters and image, up to the first Step (R261). -/
def startRun (cfg : Config) (parts : List RomPart) : Res State := loadParts parts (State.resetWith cfg)

/-- A part file of the arcade image: its name, which is the host's matter, and what reading it gave (R262). -/
structure RomFile where
  name : String
  contents : RomRead
  deriving DecidableEq, Repr

/-- The arcade image: exactly four part files, in the order of their addresses (R262). -/
structure ArcadeImage where
  part0 : RomFile
  part1 : RomFile
  part2 : RomFile
  part3 : RomFile
  deriving DecidableEq, Repr

/-- The arcade image under the conventional file names (R262). -/
def ArcadeImage.conventional (h g f e : RomRead) : ArcadeImage where
  part0 := { name := "invaders.h", contents := h }
  part1 := { name := "invaders.g", contents := g }
  part2 := { name := "invaders.f", contents := f }
  part3 := { name := "invaders.e", contents := e }

/-- The most bytes a part of the arcade image may occupy, "up to the next offset" (R262). -/
def arcadePartRoom : Nat := 0x800

/-- A part file at its offset, with the arcade's room. -/
def RomFile.placed (file : RomFile) (offset : Word) : RomPart :=
  { name := file.name, offset := offset, room := arcadePartRoom, contents := file.contents }

/-- The four parts at their four fixed offsets (R262). -/
def ArcadeImage.parts (image : ArcadeImage) : List RomPart :=
  [image.part0.placed 0x0000#16, image.part1.placed 0x0800#16, image.part2.placed 0x1000#16,
   image.part3.placed 0x1800#16]

/-- The start of an arcade run. -/
def startArcade (image : ArcadeImage) : Res State := startRun Config.arcade image.parts

/-- What a model supplies for a conformance run: the test image, and the banner it prints on success, which is a
parameter that comes with the image (R264, U14). -/
structure ConformanceTest where
  file : RomFile
  banner : List Byte
  deriving DecidableEq, Repr

/-- The test image at 0x0100, where PC starts (R262, R264); it may reach up to the end of memory. -/
def ConformanceTest.part (test : ConformanceTest) : RomPart where
  name := test.file.name
  offset := 0x0100#16
  room := Config.conformance.memSize - 0x0100
  contents := test.file.contents

/-- The start of a conformance run. -/
def startConformance (test : ConformanceTest) : Res State := startRun Config.conformance [test.part]

/-! ### The verdict on a conformance run (R264) -/

/-- The character of a print event. -/
def HostEvent.printed : HostEvent → Option Byte
  | .print ch => some ch
  | .input _ _ => none
  | .output _ _ => none
  | .sound _ _ => none

/-- The text printed so far. -/
def State.printed (s : State) : List Byte := s.events.filterMap HostEvent.printed

/-- Where a run stands after a number of moves: it ended normally (R251 (c)), with the text printed by then; it stopped
for another reason; it met an opcode without an instruction; or it goes on. -/
inductive RunVerdict where
  | ended (text : List Byte)
  | stopped (f : Fault)
  | refused (r : Refusal)
  | goesOn
  deriving DecidableEq, Repr

/-- The verdict on the run from `s` after at most `n` moves. -/
def runVerdict : Nat → State → RunVerdict
  | 0, _ => .goesOn
  | n + 1, s =>
    match machineStep s with
    | .next t => runVerdict n t
    | .fault f => if f = .harnessEnd then .ended s.printed else .stopped f
    | .refused r => .refused r

/-- The verdict on a conformance test after at most `n` moves, its start included. -/
def ConformanceTest.verdict (test : ConformanceTest) (n : Nat) : RunVerdict :=
  match startConformance test with
  | .next s => runVerdict n s
  | .fault f => .stopped f
  | .refused r => .refused r

/-- The test passes within `n` moves: "the printed text is the banner", "no error occurs, and the run ends at
PC = 0x0000" (R264). -/
def ConformanceTest.passesWithin (test : ConformanceTest) (n : Nat) : Bool :=
  decide (test.verdict n = .ended test.banner)

end Sys2Proof.Machine
end

