-- ==== Sys2Proof/Machine/Step.lean ====
section
/-! DEFINITION. The step of the machine, and placing an instruction where it fetches next (spec 30_encoding.md R90,
60_exceptions.md R230). Both only call operations of Machine/Cycle.lean. -/

namespace Sys2Proof.Machine

/-- One move of the machine. -/
def step (s : State) : Host.Outcome State Fault Refusal := machineStep s

/-- The state with an opcode-table word (bit 0 the least significant bit of the first byte, the bits above `nbits` zero)
stored where the next step fetches, and that step made a Step of the CPU (log entry 15). -/
def State.withFetchWord (s : State) (nbits w : Nat) : State :=
  s.readyToStep.placeBytes (tableWordBytes nbits w) s.readyToStep.pc

end Sys2Proof.Machine
end

