-- ==== Sys2Proof/Safety.lean ====
section
/-! DEFINITION. What counts as a good state and a safe run, in the terms the statements use. -/

namespace Sys2Proof.Machine

/-- The invariant of the machine: memory is canonical, no cell lies outside the memory, and the alternator and the point
of the frame agree ("with A at every half-frame point and B at every end-of-frame point", 60_exceptions.md R233). -/
def State.Inv (s : State) : Prop :=
  s.mem.wf = true ∧ s.mem.within s.cfg.memSize = true ∧ (s.nextVec = .a ↔ s.half = .first)

/-- The parameters for which R231 and R234 bound `fc`: the cycle table of R272, and an interrupt cost that fits twice
into half a frame. -/
def TimedConfig (c : Config) : Prop :=
  c.cycleTable = .standard ∧ 2 * c.intCycles ≤ c.halfCycles

/-- The bounds on `fc` inside a frame: a burst overshoots its target by at most 17 (R231). -/
def State.TimingInv (s : State) : Prop :=
  match s.half with
  | .first => s.fc ≤ s.cfg.halfCycles + 17
  | .second => s.fc ≤ s.cfg.frameCycles + 17

/-- A state that some number of steps from `s` reaches. -/
inductive Reaches (s : State) : State → Prop where
  | refl : Reaches s s
  | step {t u : State} : Reaches s t → Machine.step t = .next u → Reaches s u

/-- A reason to stop that is an error of R220, and not the normal end of a run (R251). -/
def Fault.isError : Fault → Bool
  | .memoryOutOfBounds _ => true
  | .romLoadFailure _ _ => true
  | .harnessEnd => false
  | .harnessPrintEndless _ => false

/-- The spec's labels of the errors (R220): E1 is the refusal `unsupportedOpcode`. -/
def Fault.causeCode : Fault → Option String
  | .memoryOutOfBounds _ => some "E2"
  | .romLoadFailure _ _ => some "E3"
  | .harnessEnd => none
  | .harnessPrintEndless _ => none

/-- The run from `s` ends normally, at PC = 0x0000, and the text printed by then is the banner: the pass condition of a
conformance run (70_reset_and_hazards.md R264). A run that ends so has met no error before. -/
def PassesWith (banner : List Byte) (s : State) : Prop := ∃ n, runVerdict n s = .ended banner

/-- The conformance test passes: its image loads, and the run from there passes with its banner (R264, U14). -/
def ConformanceTest.Passes (test : ConformanceTest) : Prop :=
  ∃ s, startConformance test = .next s ∧ PassesWith test.banner s

/-- The run from `s` raises no error and meets no opcode without an instruction within any number of steps. -/
def SafeRun (s : State) : Prop :=
  ∀ t, Reaches s t →
    (∀ f, Machine.step t = .fault f → f.isError = false) ∧ ∀ r, Machine.step t ≠ .refused r

end Sys2Proof.Machine
end

