-- ==== Sys2Proof/Certificates/Slice0/Obligations.lean ====
section
/-! DEFINITION. The statements for the provers. First the words they are written in (what a result's flags are, what an
instruction leaves alone), stated with numbers and bits and not with the model's own flag functions; then one
`def Obligations.<Name> : Prop` each. -/

namespace Sys2Proof.Spec

open Sys2Proof.Machine

/-! ### What is unchanged -/

/-- The address is inside the memory (20_memory.md R51). -/
abbrev InRange (s : State) (a : Word) : Prop := a.toNat < s.cfg.memSize

/-- The byte the memory holds at an address. -/
abbrev byteAt (s : State) (a : Word) : Byte := s.mem.read a.toNat

/-- The interrupt, halt, timing, device, configuration and host state is unchanged. -/
structure SameRest (s t : State) : Prop where
  ie : t.ie = s.ie
  halted : t.halted = s.halted
  cyc : t.cyc = s.cyc
  fc : t.fc = s.fc
  nextVec : t.nextVec = s.nextVec
  half : t.half = s.half
  dev : t.dev = s.dev
  cfg : t.cfg = s.cfg
  inputs : t.inputs = s.inputs
  draws : t.draws = s.draws
  events : t.events = s.events

/-- Every register but those listed is unchanged. -/
def SameRegsBut (ws : List Reg) (s t : State) : Prop := ∀ q, q ∉ ws → t.reg q = s.reg q

/-- Every byte of memory but those at the listed addresses is unchanged. -/
def SameMemBut (ws : List Word) (s t : State) : Prop := ∀ a : Nat, (∀ w ∈ ws, a ≠ w.toNat) → t.mem.read a = s.mem.read a

/-- A sequential instruction of `len` bytes that writes the registers `ws`, no memory and not SP. Of the flags it says
nothing. -/
structure RegisterForm (len : Nat) (ws : List Reg) (s t : State) : Prop where
  pc : t.pc = s.pc + BitVec.ofNat 16 len
  sp : t.sp = s.sp
  regs : SameRegsBut ws s t
  mem : SameMemBut [] s t
  rest : SameRest s t

/-- A sequential instruction of `len` bytes that stores to the addresses `as`, and writes no register and not SP. Of the
flags it says nothing. -/
structure StoreForm (len : Nat) (as : List Word) (s t : State) : Prop where
  pc : t.pc = s.pc + BitVec.ofNat 16 len
  sp : t.sp = s.sp
  regs : SameRegsBut [] s t
  mem : SameMemBut as s t
  rest : SameRest s t

/-! ### Flags of a result (00_scope.md R13, 10_state.md R31) -/

/-- The number of set bits is even. -/
def EvenParity (r : Byte) : Prop := ((List.range 8).map fun i => r.toNat / 2 ^ i % 2).sum % 2 = 0

/-- S, Z and P are those of the result `r`. -/
def SzpOf (r : Byte) (f : Flags) : Prop :=
  (f.s = true ↔ 128 ≤ r.toNat) ∧ (f.z = true ↔ r.toNat = 0) ∧ (f.p = true ↔ EvenParity r)

/-- The XOR rule of R120 and R121. -/
def XorRule (a n r : Byte) : Prop := (a ^^^ n ^^^ r) &&& 0x10#8 ≠ 0#8

/-- AC of a subtract-type operation from its borrow out of bit 3 (41_arithmetic.md R122). -/
def AcOfBorrow (mode : AcMode) (borrow : Prop) (ac : Bool) : Prop :=
  match mode with
  | .source => ac = true ↔ borrow
  | .intel => ac = true ↔ ¬borrow

/-- `accumulator_add(n, cin)` by a sequential instruction of `len` bytes (R120): exact sum, narrowed. AC is both
what the XOR rule gives and the carry out of bit 3. -/
structure AddResult (len : Nat) (n : Byte) (cin : Bool) (s t : State) : Prop where
  a : (t.reg .a).toNat = ((s.reg .a).toNat + n.toNat + cin.toNat) % 256
  szp : SzpOf (t.reg .a) t.flags
  cy : t.flags.cy = true ↔ (s.reg .a).toNat + n.toNat + cin.toNat > 255
  acXor : t.flags.ac = true ↔ XorRule (s.reg .a) n (t.reg .a)
  acNibble : t.flags.ac = true ↔ (s.reg .a).toNat % 16 + n.toNat % 16 + cin.toNat > 15
  form : RegisterForm len [.a] s t

/-- The flags of `accumulator_sub(n, cin)` with the result `r` (R121, R122). -/
structure SubFlags (n : Byte) (cin : Bool) (r : Byte) (s t : State) : Prop where
  szp : SzpOf r t.flags
  cy : t.flags.cy = true ↔ (s.reg .a).toNat < n.toNat + cin.toNat
  acXor : AcOfBorrow s.cfg.acSubMode (XorRule (s.reg .a) n r) t.flags.ac
  acNibble : AcOfBorrow s.cfg.acSubMode ((s.reg .a).toNat % 16 < n.toNat % 16 + cin.toNat) t.flags.ac

/-- `accumulator_sub(n, cin)` by a sequential instruction of `len` bytes (R121). -/
structure SubResult (len : Nat) (n : Byte) (cin : Bool) (s t : State) : Prop where
  a : (t.reg .a).toNat = ((s.reg .a).toNat + 512 - n.toNat - cin.toNat) % 256
  flags : SubFlags n cin (t.reg .a) s t
  form : RegisterForm len [.a] s t

/-- A compare by a sequential instruction of `len` bytes (R135): the flags of the subtraction, A unchanged. -/
structure CompareResult (len : Nat) (n : Byte) (s t : State) : Prop where
  flags : SubFlags n false (BitVec.ofNat 8 ((s.reg .a).toNat + 256 - n.toNat)) s t
  equal : t.flags.z = true ↔ s.reg .a = n
  form : RegisterForm len [] s t

/-- A logical operation with result `r` and the given AC, by a sequential instruction of `len` bytes (R160). -/
structure LogicResult (len : Nat) (r : Byte) (ac : Prop) (s t : State) : Prop where
  a : t.reg .a = r
  szp : SzpOf r t.flags
  cy : t.flags.cy = false
  ac : t.flags.ac = true ↔ ac
  form : RegisterForm len [.a] s t

/-- AC of ANA and ANI (R160): 0, or bit 3 of A OR the operand. -/
def AnaAc (s : State) (n : Byte) : Prop :=
  match s.cfg.acAnaMode with
  | .source => False
  | .intel => (s.reg .a ||| n).getLsbD 3 = true

/-- Flags of INR with operand `v` and result `r`: CY is kept (R138). -/
structure IncFlags (v r : Byte) (s t : State) : Prop where
  value : r.toNat = (v.toNat + 1) % 256
  szp : SzpOf r t.flags
  ac : t.flags.ac = true ↔ v.toNat % 16 = 15
  acXor : t.flags.ac = true ↔ XorRule v 1#8 r
  cy : t.flags.cy = s.flags.cy

/-- Flags of DCR with operand `v` and result `r`: CY is kept (R140). -/
structure DecFlags (v r : Byte) (s t : State) : Prop where
  value : r.toNat = (v.toNat + 255) % 256
  szp : SzpOf r t.flags
  ac : AcOfBorrow s.cfg.acSubMode (v.toNat % 16 = 0) t.flags.ac
  acXor : AcOfBorrow s.cfg.acSubMode (XorRule v 1#8 r) t.flags.ac
  cy : t.flags.cy = s.flags.cy

/-- Only CY of the flags may change, and it becomes `c`. -/
def OnlyCy (c : Prop) (s t : State) : Prop :=
  (t.flags.cy = true ↔ c) ∧ t.flags.s = s.flags.s ∧ t.flags.z = s.flags.z ∧ t.flags.ac = s.flags.ac ∧ t.flags.p = s.flags.p

/-! ### The stack (44_stack.md R200) -/

/-- `Push16(v)`: the two bytes below SP, and SP. -/
structure Pushes (v : Word) (s t : State) : Prop where
  sp : t.sp = s.sp - 2
  high : (byteAt t (s.sp - 1)).toNat = v.toNat / 256
  low : (byteAt t (s.sp - 2)).toNat = v.toNat % 256
  mem : SameMemBut [s.sp - 1, s.sp - 2] s t

/-- The two addresses a push writes are inside the memory. -/
def CanPush (s : State) : Prop := InRange s (s.sp - 1) ∧ InRange s (s.sp - 2)

/-- What a push answers when it cannot be made: the fault of its first failing write, at SP-1 before SP-2. -/
def PushFaults (s : State) (r : Res State) : Prop :=
  (¬InRange s (s.sp - 1) → r = .fault (.memoryOutOfBounds (s.sp - 1))) ∧
  (InRange s (s.sp - 1) → ¬InRange s (s.sp - 2) → r = .fault (.memoryOutOfBounds (s.sp - 2)))

/-- The word at SP, little-endian. -/
def stackTop (s : State) : Nat := 256 * (byteAt s (s.sp + 1)).toNat + (byteAt s s.sp).toNat

/-- The two addresses a word at `a` takes are inside the memory. -/
def WordInRange (s : State) (a : Word) : Prop := InRange s a ∧ InRange s (a + 1)

/-- What a word access at `a` answers when it cannot be made: the fault at `a` before the one at `a + 1`. -/
def WordFaults (s : State) (a : Word) (r : Res State) : Prop :=
  (¬InRange s a → r = .fault (.memoryOutOfBounds a)) ∧
  (InRange s a → ¬InRange s (a + 1) → r = .fault (.memoryOutOfBounds (a + 1)))

/-- What a byte access at `a` answers when it cannot be made. -/
def ByteFault (s : State) (a : Word) (r : Res State) : Prop := ¬InRange s a → r = .fault (.memoryOutOfBounds a)

/-- A branch: PC is `target`; the registers, the flags and the rest are unchanged. Of SP and memory it says nothing. -/
structure BranchForm (target : Word) (s t : State) : Prop where
  pc : t.pc = target
  regs : SameRegsBut [] s t
  flags : t.flags = s.flags
  rest : SameRest s t

/-- A branch that touches neither SP nor memory. -/
structure JumpForm (target : Word) (s t : State) : Prop where
  branch : BranchForm target s t
  sp : t.sp = s.sp
  mem : SameMemBut [] s t

/-- The flag and the polarity a condition tests (43_branch.md R181). -/
def CondTrue (cc : Cond) (f : Flags) : Prop :=
  match cc with
  | .nz => f.z = false
  | .z => f.z = true
  | .nc => f.cy = false
  | .c => f.cy = true
  | .po => f.p = false
  | .pe => f.p = true
  | .p => f.s = false
  | .m => f.s = true

/-! ### Which instruction may write what -/

/-- The two registers of a pair operand, or none for SP (10_state.md R22, R23). -/
def regPairRegs : RegPair → List Reg
  | .bc => [.b, .c]
  | .de => [.d, .e]
  | .hl => [.h, .l]
  | .sp => []

/-- The registers an instruction may write (10_state.md R21 and the instruction rules). -/
def writtenRegs : Instr → List Reg
  | .lxi rp _ | .inx rp | .dcx rp => regPairRegs rp
  | .popRp rp => [pairHi rp, pairLo rp]
  | .inrR r | .dcrR r | .mviR r _ | .movRR r _ | .movRM r => [r]
  | .dad _ | .lhld _ | .xthl => [.h, .l]
  | .xchg => [.d, .e, .h, .l]
  | .addR _ | .addM | .adi _ | .adcR _ | .adcM | .aci _ | .subR _ | .subM | .sui _ | .sbbR _ | .sbbM | .sbi _
  | .anaR _ | .anaM | .ani _ | .xraR _ | .xraM | .xri _ | .oraR _ | .oraM | .ori _ | .rlc | .rrc | .ral | .rar
  | .cma | .daa | .lda _ | .ldax _ | .inP _ | .popPsw => [.a]
  | .nop | .stax _ | .shld _ | .sta _ | .inrM | .dcrM | .mviM _ | .stc | .cmc | .movMR _ | .hlt | .cmpR _
  | .cmpM | .rcc _ | .jcc _ _ | .jmp _ | .ccc _ _ | .pushRp _ | .rst _ | .ret | .call _ | .outP _ | .pchl
  | .di | .pushPsw | .sphl | .ei | .cpi _ => []

/-- The instructions that may write SP (10_state.md R27). -/
def mayWriteSp : Instr → Bool
  | .lxi rp _ | .inx rp | .dcx rp => rp == .sp
  | .sphl | .pushRp _ | .pushPsw | .popRp _ | .popPsw | .call _ | .ccc _ _ | .ret | .rcc _ | .rst _ => true
  | .nop | .stax _ | .inrR _ | .dcrR _ | .mviR _ _ | .rlc | .dad _ | .ldax _ | .rrc | .ral | .rar | .shld _
  | .daa | .lhld _ | .cma | .sta _ | .inrM | .dcrM | .mviM _ | .stc | .lda _ | .cmc | .movRR _ _ | .movRM _
  | .movMR _ | .hlt | .addR _ | .addM | .adcR _ | .adcM | .subR _ | .subM | .sbbR _ | .sbbM | .anaR _ | .anaM
  | .xraR _ | .xraM | .oraR _ | .oraM | .cmpR _ | .cmpM | .jcc _ _ | .jmp _ | .adi _ | .aci _ | .outP _
  | .sui _ | .inP _ | .sbi _ | .xthl | .ani _ | .pchl | .xchg | .xri _ | .di | .ori _ | .ei | .cpi _ => false

/-- Which flags an instruction may write: S, Z, AC, P and CY (10_state.md R30). -/
def writtenFlags : Instr → Flags
  | .addR _ | .addM | .adi _ | .adcR _ | .adcM | .aci _ | .subR _ | .subM | .sui _ | .sbbR _ | .sbbM | .sbi _
  | .cmpR _ | .cmpM | .cpi _ | .daa | .popPsw | .anaR _ | .anaM | .ani _ | .xraR _ | .xraM | .xri _ | .oraR _
  | .oraM | .ori _ => ⟨true, true, true, true, true⟩
  | .inrR _ | .inrM | .dcrR _ | .dcrM => ⟨true, true, true, true, false⟩
  | .dad _ | .rlc | .rrc | .ral | .rar | .stc | .cmc => ⟨false, false, false, false, true⟩
  | .nop | .lxi _ _ | .stax _ | .inx _ | .mviR _ _ | .ldax _ | .dcx _ | .shld _ | .lhld _ | .cma | .sta _
  | .mviM _ | .lda _ | .movRR _ _ | .movRM _ | .movMR _ | .hlt | .rcc _ | .popRp _ | .jcc _ _ | .jmp _
  | .ccc _ _ | .pushRp _ | .rst _ | .ret | .call _ | .outP _ | .inP _ | .xthl | .pchl | .xchg | .di | .pushPsw
  | .sphl | .ei => ⟨false, false, false, false, false⟩

/-- The addresses an instruction stores to, computed as its meaning computes them (20_memory.md R58). -/
def storeAddresses (s : State) : Instr → List Word
  | .movMR _ | .mviM _ | .inrM | .dcrM => [s.hl]
  | .stax p => [s.ptr p]
  | .sta a16 => [a16]
  | .shld a16 => [a16, a16 + 1]
  | .xthl => [s.sp, s.sp + 1]
  | .pushRp _ | .pushPsw | .call _ | .rst _ => [s.sp - 1, s.sp - 2]
  | .ccc cc _ => if condHolds cc s.flags then [s.sp - 1, s.sp - 2] else []
  | .nop | .lxi _ _ | .inx _ | .inrR _ | .dcrR _ | .mviR _ _ | .rlc | .dad _ | .ldax _ | .dcx _ | .rrc | .ral
  | .rar | .daa | .lhld _ | .cma | .stc | .lda _ | .cmc | .movRR _ _ | .movRM _ | .hlt | .addR _ | .addM
  | .adcR _ | .adcM | .subR _ | .subM | .sbbR _ | .sbbM | .anaR _ | .anaM | .xraR _ | .xraM | .oraR _ | .oraM
  | .cmpR _ | .cmpM | .rcc _ | .popRp _ | .jcc _ _ | .jmp _ | .adi _ | .ret | .aci _ | .outP _ | .sui _
  | .inP _ | .sbi _ | .ani _ | .pchl | .xchg | .xri _ | .popPsw | .di | .ori _ | .sphl | .ei | .cpi _ => []

/-- The branching instructions (30_encoding.md R91); every other one is sequential. -/
def branching : Instr → Bool
  | .jmp _ | .jcc _ _ | .call _ | .ccc _ _ | .ret | .rcc _ | .pchl | .rst _ => true
  | .nop | .lxi _ _ | .stax _ | .inx _ | .inrR _ | .dcrR _ | .mviR _ _ | .rlc | .dad _ | .ldax _ | .dcx _
  | .rrc | .ral | .rar | .shld _ | .daa | .lhld _ | .cma | .sta _ | .inrM | .dcrM | .mviM _ | .stc | .lda _
  | .cmc | .movRR _ _ | .movRM _ | .movMR _ | .hlt | .addR _ | .addM | .adcR _ | .adcM | .subR _ | .subM
  | .sbbR _ | .sbbM | .anaR _ | .anaM | .xraR _ | .xraM | .oraR _ | .oraM | .cmpR _ | .cmpM | .popRp _
  | .pushRp _ | .adi _ | .aci _ | .outP _ | .sui _ | .inP _ | .sbi _ | .xthl | .ani _ | .xchg | .xri _
  | .popPsw | .di | .pushPsw | .ori _ | .sphl | .ei | .cpi _ => false

/-! ### Encoding (30_encoding.md R73, R84) -/

/-- The opcodes without an instruction (R84). -/
def unsupportedOpcodes : List Byte := [0x08, 0x10, 0x18, 0x20, 0x28, 0x30, 0x38, 0xCB, 0xD9, 0xDD, 0xED, 0xFD]

/-- The opcodes of length 2 (R73). -/
def lengthTwo : List Byte :=
  [0x06, 0x0E, 0x16, 0x1E, 0x26, 0x2E, 0x36, 0x3E, 0xC6, 0xCE, 0xD6, 0xDE, 0xE6, 0xEE, 0xF6, 0xFE, 0xD3, 0xDB]

/-- The opcodes of length 3 (R73). -/
def lengthThree : List Byte :=
  [0x01, 0x11, 0x21, 0x31, 0x22, 0x2A, 0x32, 0x3A, 0xC3, 0xC2, 0xCA, 0xD2, 0xDA, 0xE2, 0xEA, 0xF2, 0xFA,
   0xCD, 0xC4, 0xCC, 0xD4, 0xDC, 0xE4, 0xEC, 0xF4, 0xFC]

/-- The length of the instruction an opcode begins (R73). -/
def lengthOf (op : Byte) : Nat := if op ∈ lengthTwo then 2 else if op ∈ lengthThree then 3 else 1

/-- The opcodes of the branching instructions (R91): Rcc, Jcc, Ccc and RST by their field patterns, then JMP, RET, CALL
and PCHL. -/
def branchingOpcode (op : Byte) : Bool :=
  (op.toNat / 64 == 3 && [0, 2, 4, 7].contains (op.toNat % 8)) || [0xC3, 0xC9, 0xCD, 0xE9].contains op.toNat

/-- The register codes of R74. -/
def regCode : Reg → Nat
  | .b => 0 | .c => 1 | .d => 2 | .e => 3 | .h => 4 | .l => 5 | .a => 7

/-- The pair codes of R75 for PUSH and POP. -/
def pairCode : Pair → Nat
  | .bc => 0 | .de => 1 | .hl => 2

/-- The pair codes of R75 for LXI, INX, DCX and DAD. -/
def regPairCode : RegPair → Nat
  | .bc => 0 | .de => 1 | .hl => 2 | .sp => 3

/-- The pair codes of R75 for LDAX and STAX. -/
def ptrPairCode : PtrPair → Nat
  | .bc => 0 | .de => 1

/-- The condition codes of R76. -/
def condCode : Cond → Nat
  | .nz => 0 | .z => 1 | .nc => 2 | .c => 3 | .po => 4 | .pe => 5 | .p => 6 | .m => 7

/-- The one byte of an instruction of format F1 (R71). -/
def code1 (n : Nat) : List Byte := [BitVec.ofNat 8 n]

/-- The two bytes of an instruction of format F2 (R71). -/
def code2 (n : Nat) (d8 : Byte) : List Byte := [BitVec.ofNat 8 n, d8]

/-- The three bytes of an instruction of format F3, the operand's low byte first (R71). -/
def code3 (n : Nat) (d16 : Word) : List Byte :=
  [BitVec.ofNat 8 n, BitVec.ofNat 8 (d16.toNat % 256), BitVec.ofNat 8 (d16.toNat / 256)]

/-- The three bytes at PC and after it. -/
def bytesAtPc (s : State) : List Byte := [byteAt s s.pc, byteAt s (s.pc + 1), byteAt s (s.pc + 2)]

/-- The bytes of `i` are all inside the memory. -/
def FetchInRange (s : State) (i : Instr) : Prop := ∀ k, k < i.length → InRange s (s.pc + BitVec.ofNat 16 k)

/-! ### Steps and runs of one instruction -/

/-- What the synchronizer makes of an instruction's outcome: its cost is charged to `cyc` and to `fc` (R90, R230). -/
def charged (c : Nat) : Res State → Res State
  | .next t => .next { t with cyc := t.cyc + c, fc := t.fc + c }
  | .fault f => .fault f
  | .refused r => .refused r

/-- What the harness makes of an instruction's outcome: its cost is charged to `cyc` (R90, R264). -/
def chargedCyc (c : Nat) : Res State → Res State
  | .next t => .next { t with cyc := t.cyc + c }
  | .fault f => .fault f
  | .refused r => .refused r

/-- The first `k` bytes at PC are inside the memory, and are those of `bs`. -/
def BytesAtPc (s : State) (bs : List Byte) (k : Nat) : Prop :=
  ∀ j, j < k → InRange s (s.pc + BitVec.ofNat 16 j) ∧ bs[j]? = some (byteAt s (s.pc + BitVec.ofNat 16 j))

/-- What a Step makes of an instruction's outcome: its cost is charged to `cyc` (30_encoding.md R90). -/
def stepped (c : Nat) : Res State → StepResult
  | .next t => .ok c { t with cyc := t.cyc + c }
  | .fault f => .fault f
  | .refused r => .refused r

/-- The instruction has these bytes; a Step reads them from PC on in ascending order and stops at the first one outside
the memory (20_memory.md R69); and with all of them inside, the Step is `exec` of the instruction (30_encoding.md R90). -/
structure Encoded (i : Instr) (bs : List Byte) : Prop where
  bytes : encode i = bs
  fetchFault : ∀ (s : State) (k : Nat), s.halted = false → k < bs.length → BytesAtPc s bs k →
    ¬InRange s (s.pc + BitVec.ofNat 16 k) → cpuStep s = .fault (.memoryOutOfBounds (s.pc + BitVec.ofNat 16 k))
  runs : ∀ s : State, s.halted = false → BytesAtPc s bs bs.length →
    cpuStep s = stepped (cycleCost s.cfg i s.flags) (exec i s)

/-- One instruction run a number of times. -/
def execTimes (i : Instr) : Nat → State → Res State
  | 0, s => .next s
  | n + 1, s =>
    match exec i s with
    | .next t => execTimes i n t
    | .fault f => .fault f
    | .refused r => .refused r

/-- The two-digit BCD byte of a number below 100. -/
def bcd (x : Nat) : Byte := BitVec.ofNat 8 (x / 10 * 16 + x % 10)

/-- The bits set now that were not set in the latch, in increasing order (60_exceptions.md R243). -/
def risingBits (latch v : Byte) : List Nat := (List.range 8).filter fun i => v.getLsbD i && !latch.getLsbD i

end Sys2Proof.Spec

open Sys2Proof Sys2Proof.Machine Sys2Proof.Spec

/-! ## Reset and encoding -/

/-- 10_state.md R42, R43 (decisions D10, D29, log entries 8 and 9): every register of the reset state. -/
def Obligations.ResetLeavesSpecValues : Prop :=
  (∀ r, State.reset.reg r = 0) ∧ State.reset.sp = 0 ∧ State.reset.pc = 0x0000#16 ∧
  State.reset.flags = ⟨false, false, false, false, false⟩ ∧ State.reset.ie = false ∧ State.reset.halted = false ∧
  State.reset.cyc = 0 ∧ State.reset.fc = 0 ∧ State.reset.nextVec = .a ∧ State.reset.dev = ⟨0, 0, 0, 0, 0⟩ ∧
  (∀ a, State.reset.mem.read a = 0) ∧ State.reset.cfg.memSize = 65536 ∧ State.reset.cfg.frameCycles = 33333 ∧
  State.reset.cfg.halfCycles = 16666 ∧ (State.resetWith Config.conformance).pc = 0x0100#16

/-- 30_encoding.md R80, R81: words written out from the map and the field patterns, one or more of every family. -/
def Obligations.WrittenWordsDecode : Prop :=
  decode [0x41] = .ok (.movRR .b .c) [] ∧ decode [0x7E] = .ok (.movRM .a) [] ∧ decode [0x76] = .ok .hlt [] ∧
  decode [0x36, 0xAB] = .ok (.mviM 0xAB) [] ∧ decode [0x31, 0x00, 0x24] = .ok (.lxi .sp 0x2400) [] ∧
  decode [0xF5] = .ok .pushPsw [] ∧ decode [0x39] = .ok (.dad .sp) [] ∧ decode [0x9E] = .ok .sbbM [] ∧
  decode [0xEE, 0x81] = .ok (.xri 0x81) [] ∧ decode [0xEA, 0x34, 0x12] = .ok (.jcc .pe 0x1234) [] ∧
  decode [0xF4, 0x00, 0x30] = .ok (.ccc .p 0x3000) [] ∧ decode [0xD8] = .ok (.rcc .c) [] ∧
  decode [0xDF] = .ok (.rst 3) [] ∧ decode [0xDB, 0x03] = .ok (.inP 3) [] ∧ decode [0x1F] = .ok .rar [] ∧
  decode [0x08] = .unsupported 0x08

/-- 30_encoding.md R82, R84 (decision D4, log entry 10): the decoder has no instruction for exactly twelve opcodes. -/
def Obligations.UnsupportedOpcodesAreTheTwelve : Prop :=
  ∀ (op : Byte) (bs : List Byte), decode (op :: bs) = .unsupported op ↔ op ∈ unsupportedOpcodes

/-- 30_encoding.md R73: the length is the opcode's, whatever follows it, and enough bytes always decode. -/
def Obligations.LengthDependsOnOpcodeOnly : Prop :=
  ∀ (op : Byte) (bs : List Byte), op ∉ unsupportedOpcodes →
    (lengthOf op ≤ bs.length + 1 → ∃ i rest, decode (op :: bs) = .ok i rest ∧ i.length = lengthOf op ∧
      rest.length + lengthOf op = bs.length + 1) ∧
    (bs.length + 1 < lengthOf op → decode (op :: bs) = .truncated)

/-- Every well-formed instruction is read back from its bytes, whatever follows them. -/
def Obligations.DecodeOfEncodeIsIdentity : Prop :=
  ∀ (i : Instr) (rest : List Byte), i.wellFormed = true → decode (encode i ++ rest) = .ok i rest

/-- Every byte sequence that decodes is the encoding of the well-formed instruction it decodes to: no word has two
meanings. -/
def Obligations.EncodeOfDecodeIsIdentity : Prop :=
  ∀ (bs rest : List Byte) (i : Instr), decode bs = .ok i rest → i.wellFormed = true ∧ encode i ++ rest = bs

/-! ## The step -/

/-- 30_encoding.md R90 under the synchronizer (60_exceptions.md R230): a step below the burst's target is `exec` of the
decoded instruction, with its cost charged to `cyc` and `fc`. -/
def Obligations.SynchronizerStepRunsDecoded : Prop :=
  ∀ (s : State) (i : Instr) (rest : List Byte), s.cfg.runner = .synchronizer → s.fc < burstTarget s →
    s.halted = false → decode (bytesAtPc s) = .ok i rest → FetchInRange s i →
    step s = charged (cycleCost s.cfg i s.flags) (exec i s)

/-- 30_encoding.md R90 under the conformance harness (70_reset_and_hazards.md R264, log entry 4): a step at any PC
it does not act on is `exec` of the decoded instruction, with its cost charged to `cyc`. -/
def Obligations.HarnessStepRunsDecoded : Prop :=
  ∀ (s : State) (i : Instr) (rest : List Byte), s.cfg.runner = .harness → s.pc ≠ 0x0005#16 → s.pc ≠ 0x0000#16 →
    s.halted = false → decode (bytesAtPc s) = .ok i rest → FetchInRange s i →
    step s = chargedCyc (cycleCost s.cfg i s.flags) (exec i s)

/-- Log entry 15: the next step after `withFetchWord` runs the placed instruction, and placing it changed nothing but
`halted`, `fc` and three bytes of memory. -/
def Obligations.PlacedWordRunsNext : Prop :=
  ∀ (s : State) (nbits w : Nat) (i : Instr), s.cfg.runner = .synchronizer → 0 < burstTarget s → s.mem.wf = true →
    InRange s s.pc → InRange s (s.pc + 1) → InRange s (s.pc + 2) → decodeTableWord nbits w = some i →
    step (s.withFetchWord nbits w) =
      charged (cycleCost s.cfg i s.flags) (exec i (s.withFetchWord nbits w)) ∧
    (s.withFetchWord nbits w).pc = s.pc ∧ (s.withFetchWord nbits w).sp = s.sp ∧
    (s.withFetchWord nbits w).flags = s.flags ∧ (s.withFetchWord nbits w).regs = s.regs ∧
    SameMemBut [s.pc, s.pc + 1, s.pc + 2] s (s.withFetchWord nbits w)

/-- 30_encoding.md R92 and 60_exceptions.md R232 (decisions D14, D15, log entry 2): a halted CPU's Step does not run; the
synchronizer lets it idle to the target, the harness finds it unchanged. -/
def Obligations.HaltedCpuDoesNotRun : Prop :=
  ∀ s : State, s.halted = true →
    cpuStep s = .notRunning ∧
    (s.cfg.runner = .synchronizer → s.fc < burstTarget s → step s = .next { s with fc := burstTarget s }) ∧
    (s.cfg.runner = .harness → s.pc ≠ 0x0005#16 → s.pc ≠ 0x0000#16 → step s = .next s)

/-- 60_exceptions.md R222 (decision D4, log entry 10): fetching one of the twelve opcodes stops the machine, with the
opcode and PC. -/
def Obligations.UnsupportedOpcodeIsRefused : Prop :=
  ∀ s : State, s.halted = false → InRange s s.pc → byteAt s s.pc ∈ unsupportedOpcodes →
    cpuStep s = .refused (.unsupportedOpcode (byteAt s s.pc) s.pc) ∧
    (s.cfg.runner = .synchronizer → s.fc < burstTarget s →
      step s = .refused (.unsupportedOpcode (byteAt s s.pc) s.pc))

/-- 20_memory.md R69, 60_exceptions.md R221, R235 (decisions D19, D21, log entry 11): a fetch outside the memory stops
the machine at the first byte that lies outside, the opcode before the operands in ascending order. -/
def Obligations.FetchReportsFirstOutOfBounds : Prop :=
  ∀ s : State, s.halted = false →
    (¬InRange s s.pc → cpuStep s = .fault (.memoryOutOfBounds s.pc)) ∧
    (InRange s s.pc → byteAt s s.pc ∈ lengthTwo → ¬InRange s (s.pc + 1) →
      cpuStep s = .fault (.memoryOutOfBounds (s.pc + 1))) ∧
    (InRange s s.pc → byteAt s s.pc ∈ lengthThree → ¬InRange s (s.pc + 1) →
      cpuStep s = .fault (.memoryOutOfBounds (s.pc + 1))) ∧
    (InRange s s.pc → byteAt s s.pc ∈ lengthThree → InRange s (s.pc + 1) → ¬InRange s (s.pc + 2) →
      cpuStep s = .fault (.memoryOutOfBounds (s.pc + 2)))

/-- 00_scope.md R14 ("With `MEM_SIZE = 65536` no access can raise it") and 60_exceptions.md R224: with the full memory
every instruction completes, and no move of the synchronizer faults. -/
def Obligations.FullMemoryNeverFaults : Prop :=
  ∀ s : State, 65536 ≤ s.cfg.memSize →
    (∀ i : Instr, ∃ t, exec i s = .next t) ∧
    (s.cfg.runner = .synchronizer → ∀ f, step s ≠ .fault f)

/-- 60_exceptions.md R221, R224 (decision D19, log entry 11): an instruction stops only for an access outside the memory,
and is never refused. -/
def Obligations.InstructionStopsOnlyOutOfBounds : Prop :=
  ∀ (i : Instr) (s : State),
    (∀ f, exec i s = .fault f → ∃ a : Word, f = .memoryOutOfBounds a ∧ ¬InRange s a) ∧ ∀ r, exec i s ≠ .refused r

/-! ## Data transfer -/

/-- 40_data_transfer.md R100, R103: MOV and MVI copy a byte to a register.
How each is encoded and fetched is stated as well (R69, R71 to R78, R90). -/
def Obligations.RegisterMovesAndImmediates : Prop :=
  (∀ r1 r2, Encoded (.movRR r1 r2) (code1 (0x40 + 8 * regCode r1 + regCode r2))) ∧
  (∀ r v, Encoded (.mviR r v) (code2 (0x06 + 8 * regCode r) v)) ∧
  ∀ s : State,
    (∀ r1 r2, ∃ t, exec (.movRR r1 r2) s = .next t ∧ t.reg r1 = s.reg r2 ∧ t.flags = s.flags ∧
      RegisterForm 1 [r1] s t) ∧
    (∀ r d8, ∃ t, exec (.mviR r d8) s = .next t ∧ t.reg r = d8 ∧ t.flags = s.flags ∧ RegisterForm 2 [r] s t)

/-- 40_data_transfer.md R101, R106, R110: the byte at the address goes to the register, or the address is reported.
How each is encoded and fetched is stated as well (R69, R71 to R78, R90). -/
def Obligations.LoadsReadTheirAddress : Prop :=
  (∀ r, Encoded (.movRM r) (code1 (0x46 + 8 * regCode r))) ∧ (∀ v, Encoded (.lda v) (code3 0x3A v)) ∧
  (∀ p, Encoded (.ldax p) (code1 (0x0A + 16 * ptrPairCode p))) ∧
  ∀ s : State,
    (∀ r, (InRange s s.hl → ∃ t, exec (.movRM r) s = .next t ∧ t.reg r = byteAt s s.hl ∧ t.flags = s.flags ∧
      RegisterForm 1 [r] s t) ∧ ByteFault s s.hl (exec (.movRM r) s)) ∧
    (∀ a16, (InRange s a16 → ∃ t, exec (.lda a16) s = .next t ∧ t.reg .a = byteAt s a16 ∧ t.flags = s.flags ∧
      RegisterForm 3 [.a] s t) ∧ ByteFault s a16 (exec (.lda a16) s)) ∧
    (∀ p, (InRange s (s.ptr p) → ∃ t, exec (.ldax p) s = .next t ∧ t.reg .a = byteAt s (s.ptr p) ∧
      t.flags = s.flags ∧ RegisterForm 1 [.a] s t) ∧ ByteFault s (s.ptr p) (exec (.ldax p) s)) ∧
    s.ptr .bc = s.pair .bc ∧ s.ptr .de = s.pair .de

/-- 40_data_transfer.md R102, R104, R107, R111: the byte goes to the address, every other byte stays, or the address is
reported.
How each is encoded and fetched is stated as well (R69, R71 to R78, R90). -/
def Obligations.StoresWriteTheirAddress : Prop :=
  (∀ r, Encoded (.movMR r) (code1 (0x70 + regCode r))) ∧ (∀ v, Encoded (.mviM v) (code2 0x36 v)) ∧
  (∀ v, Encoded (.sta v) (code3 0x32 v)) ∧ (∀ p, Encoded (.stax p) (code1 (0x02 + 16 * ptrPairCode p))) ∧
  ∀ s : State, s.mem.wf = true →
    (∀ r, (InRange s s.hl → ∃ t, exec (.movMR r) s = .next t ∧ byteAt t s.hl = s.reg r ∧ t.flags = s.flags ∧
      StoreForm 1 [s.hl] s t) ∧ ByteFault s s.hl (exec (.movMR r) s)) ∧
    (∀ d8, (InRange s s.hl → ∃ t, exec (.mviM d8) s = .next t ∧ byteAt t s.hl = d8 ∧ t.flags = s.flags ∧
      StoreForm 2 [s.hl] s t) ∧ ByteFault s s.hl (exec (.mviM d8) s)) ∧
    (∀ a16, (InRange s a16 → ∃ t, exec (.sta a16) s = .next t ∧ byteAt t a16 = s.reg .a ∧ t.flags = s.flags ∧
      StoreForm 3 [a16] s t) ∧ ByteFault s a16 (exec (.sta a16) s)) ∧
    (∀ p, (InRange s (s.ptr p) → ∃ t, exec (.stax p) s = .next t ∧ byteAt t (s.ptr p) = s.reg .a ∧
      t.flags = s.flags ∧ StoreForm 1 [s.ptr p] s t) ∧ ByteFault s (s.ptr p) (exec (.stax p) s))

/-- 40_data_transfer.md R105, R112: LXI loads a pair or SP, XCHG exchanges HL and DE.
How each is encoded and fetched is stated as well (R69, R71 to R78, R90). -/
def Obligations.PairLoadsAndExchange : Prop :=
  (∀ rp v, Encoded (.lxi rp v) (code3 (0x01 + 16 * regPairCode rp) v)) ∧ Encoded .xchg (code1 0xEB) ∧
  ∀ s : State,
    (∀ d16 : Word,
      (∃ t, exec (.lxi .bc d16) s = .next t ∧ (t.reg .b).toNat = d16.toNat / 256 ∧
        (t.reg .c).toNat = d16.toNat % 256 ∧ t.flags = s.flags ∧ RegisterForm 3 [.b, .c] s t) ∧
      (∃ t, exec (.lxi .de d16) s = .next t ∧ (t.reg .d).toNat = d16.toNat / 256 ∧
        (t.reg .e).toNat = d16.toNat % 256 ∧ t.flags = s.flags ∧ RegisterForm 3 [.d, .e] s t) ∧
      (∃ t, exec (.lxi .hl d16) s = .next t ∧ (t.reg .h).toNat = d16.toNat / 256 ∧
        (t.reg .l).toNat = d16.toNat % 256 ∧ t.flags = s.flags ∧ RegisterForm 3 [.h, .l] s t) ∧
      (∃ t, exec (.lxi .sp d16) s = .next t ∧ t.sp = d16 ∧ t.pc = s.pc + 3 ∧ t.flags = s.flags ∧
        SameRegsBut [] s t ∧ SameMemBut [] s t ∧ SameRest s t)) ∧
    (∃ t, exec .xchg s = .next t ∧ t.reg .h = s.reg .d ∧ t.reg .l = s.reg .e ∧ t.reg .d = s.reg .h ∧
      t.reg .e = s.reg .l ∧ t.flags = s.flags ∧ RegisterForm 1 [.d, .e, .h, .l] s t)

/-- 40_data_transfer.md R108, R109 (little-endian by decision D1): LHLD and SHLD move two bytes, and a word at 0xFFFF
has its high byte at 0x0000 (D2).
How each is encoded and fetched is stated as well (R69, R71 to R78, R90). -/
def Obligations.WordLoadsAndStores : Prop :=
  (∀ v, Encoded (.lhld v) (code3 0x2A v)) ∧ (∀ v, Encoded (.shld v) (code3 0x22 v)) ∧
  ∀ (s : State) (a16 : Word), s.mem.wf = true →
    (WordInRange s a16 → ∃ t, exec (.lhld a16) s = .next t ∧ t.reg .l = byteAt s a16 ∧
      t.reg .h = byteAt s (a16 + 1) ∧ t.flags = s.flags ∧ RegisterForm 3 [.h, .l] s t) ∧
    WordFaults s a16 (exec (.lhld a16) s) ∧
    (WordInRange s a16 → ∃ t, exec (.shld a16) s = .next t ∧ byteAt t a16 = s.reg .l ∧
      byteAt t (a16 + 1) = s.reg .h ∧ t.flags = s.flags ∧ StoreForm 3 [a16, a16 + 1] s t) ∧
    WordFaults s a16 (exec (.shld a16) s)

/-- 10_state.md R22: a pair is a view of its two registers, the first-named one high. -/
def Obligations.PairIsViewOfTwoRegisters : Prop :=
  ∀ (s : State) (v : Word),
    (s.pair .bc).toNat = 256 * (s.reg .b).toNat + (s.reg .c).toNat ∧
    (s.pair .de).toNat = 256 * (s.reg .d).toNat + (s.reg .e).toNat ∧
    (s.pair .hl).toNat = 256 * (s.reg .h).toNat + (s.reg .l).toNat ∧ s.hl = s.pair .hl ∧
    (∀ rp, (s.setPair rp v).pair rp = v ∧ ∀ rq, rq ≠ rp → (s.setPair rp v).pair rq = s.pair rq) ∧
    (∀ rp, ((s.setPair rp v).reg (pairHi rp)).toNat = v.toNat / 256 ∧
      ((s.setPair rp v).reg (pairLo rp)).toNat = v.toNat % 256)

/-! ## Arithmetic -/

/-- 41_arithmetic.md R120, R123 to R128: every add.
How each is encoded and fetched is stated as well (R69, R71 to R78, R90). -/
def Obligations.AdditionsGiveSumAndFlags : Prop :=
  (∀ r, Encoded (.addR r) (code1 (0x80 + regCode r))) ∧ Encoded .addM (code1 0x86) ∧
  (∀ v, Encoded (.adi v) (code2 0xC6 v)) ∧ (∀ r, Encoded (.adcR r) (code1 (0x88 + regCode r))) ∧
  Encoded .adcM (code1 0x8E) ∧ (∀ v, Encoded (.aci v) (code2 0xCE v)) ∧
  ∀ s : State,
    (∀ r, ∃ t, exec (.addR r) s = .next t ∧ AddResult 1 (s.reg r) false s t) ∧
    (∀ r, ∃ t, exec (.adcR r) s = .next t ∧ AddResult 1 (s.reg r) s.flags.cy s t) ∧
    (∀ d8, ∃ t, exec (.adi d8) s = .next t ∧ AddResult 2 d8 false s t) ∧
    (∀ d8, ∃ t, exec (.aci d8) s = .next t ∧ AddResult 2 d8 s.flags.cy s t) ∧
    (InRange s s.hl → ∃ t, exec .addM s = .next t ∧ AddResult 1 (byteAt s s.hl) false s t) ∧
    ByteFault s s.hl (exec .addM s) ∧
    (InRange s s.hl → ∃ t, exec .adcM s = .next t ∧ AddResult 1 (byteAt s s.hl) s.flags.cy s t) ∧
    ByteFault s s.hl (exec .adcM s)

/-- 41_arithmetic.md R121, R122, R129 to R134: every subtract, under both settings of `AC_SUB_MODE`.
How each is encoded and fetched is stated as well (R69, R71 to R78, R90). -/
def Obligations.SubtractionsGiveDifferenceAndFlags : Prop :=
  (∀ r, Encoded (.subR r) (code1 (0x90 + regCode r))) ∧ Encoded .subM (code1 0x96) ∧
  (∀ v, Encoded (.sui v) (code2 0xD6 v)) ∧ (∀ r, Encoded (.sbbR r) (code1 (0x98 + regCode r))) ∧
  Encoded .sbbM (code1 0x9E) ∧ (∀ v, Encoded (.sbi v) (code2 0xDE v)) ∧
  ∀ s : State,
    (∀ r, ∃ t, exec (.subR r) s = .next t ∧ SubResult 1 (s.reg r) false s t) ∧
    (∀ r, ∃ t, exec (.sbbR r) s = .next t ∧ SubResult 1 (s.reg r) s.flags.cy s t) ∧
    (∀ d8, ∃ t, exec (.sui d8) s = .next t ∧ SubResult 2 d8 false s t) ∧
    (∀ d8, ∃ t, exec (.sbi d8) s = .next t ∧ SubResult 2 d8 s.flags.cy s t) ∧
    (InRange s s.hl → ∃ t, exec .subM s = .next t ∧ SubResult 1 (byteAt s s.hl) false s t) ∧
    ByteFault s s.hl (exec .subM s) ∧
    (InRange s s.hl → ∃ t, exec .sbbM s = .next t ∧ SubResult 1 (byteAt s s.hl) s.flags.cy s t) ∧
    ByteFault s s.hl (exec .sbbM s)

/-- 41_arithmetic.md R135 to R137: every compare sets the flags of the subtraction and leaves A.
How each is encoded and fetched is stated as well (R69, R71 to R78, R90). -/
def Obligations.ComparesSetFlagsOnly : Prop :=
  (∀ r, Encoded (.cmpR r) (code1 (0xB8 + regCode r))) ∧ Encoded .cmpM (code1 0xBE) ∧
  (∀ v, Encoded (.cpi v) (code2 0xFE v)) ∧
  ∀ s : State,
    (∀ r, ∃ t, exec (.cmpR r) s = .next t ∧ CompareResult 1 (s.reg r) s t) ∧
    (∀ d8, ∃ t, exec (.cpi d8) s = .next t ∧ CompareResult 2 d8 s t) ∧
    (InRange s s.hl → ∃ t, exec .cmpM s = .next t ∧ CompareResult 1 (byteAt s s.hl) s t) ∧
    ByteFault s s.hl (exec .cmpM s)

/-- 41_arithmetic.md R138 to R141: INR and DCR of a register or of M, which keep CY.
How each is encoded and fetched is stated as well (R69, R71 to R78, R90). -/
def Obligations.IncrementsKeepCarry : Prop :=
  (∀ r, Encoded (.inrR r) (code1 (0x04 + 8 * regCode r))) ∧ Encoded .inrM (code1 0x34) ∧
  (∀ r, Encoded (.dcrR r) (code1 (0x05 + 8 * regCode r))) ∧ Encoded .dcrM (code1 0x35) ∧
  ∀ s : State, s.mem.wf = true →
    (∀ r, ∃ t, exec (.inrR r) s = .next t ∧ IncFlags (s.reg r) (t.reg r) s t ∧ RegisterForm 1 [r] s t) ∧
    (∀ r, ∃ t, exec (.dcrR r) s = .next t ∧ DecFlags (s.reg r) (t.reg r) s t ∧ RegisterForm 1 [r] s t) ∧
    (InRange s s.hl → ∃ t, exec .inrM s = .next t ∧ IncFlags (byteAt s s.hl) (byteAt t s.hl) s t ∧
      StoreForm 1 [s.hl] s t) ∧
    ByteFault s s.hl (exec .inrM s) ∧
    (InRange s s.hl → ∃ t, exec .dcrM s = .next t ∧ DecFlags (byteAt s s.hl) (byteAt t s.hl) s t ∧
      StoreForm 1 [s.hl] s t) ∧
    ByteFault s s.hl (exec .dcrM s)

/-- 41_arithmetic.md R142, R143: INX and DCX of a pair or of SP, modulo 2^16, with no flag.
How each is encoded and fetched is stated as well (R69, R71 to R78, R90). -/
def Obligations.PairIncrementsTouchNoFlag : Prop :=
  (∀ rp, Encoded (.inx rp) (code1 (0x03 + 16 * regPairCode rp))) ∧
  (∀ rp, Encoded (.dcx rp) (code1 (0x0B + 16 * regPairCode rp))) ∧
  ∀ s : State,
    (∀ (rp : Pair) (q : RegPair), (rp = .bc ∧ q = .bc) ∨ (rp = .de ∧ q = .de) ∨ (rp = .hl ∧ q = .hl) →
      (∃ t, exec (.inx q) s = .next t ∧ (t.pair rp).toNat = ((s.pair rp).toNat + 1) % 65536 ∧ t.flags = s.flags ∧
        RegisterForm 1 [pairHi rp, pairLo rp] s t) ∧
      (∃ t, exec (.dcx q) s = .next t ∧ (t.pair rp).toNat = ((s.pair rp).toNat + 65535) % 65536 ∧
        t.flags = s.flags ∧ RegisterForm 1 [pairHi rp, pairLo rp] s t)) ∧
    (∃ t, exec (.inx .sp) s = .next t ∧ t.sp.toNat = (s.sp.toNat + 1) % 65536 ∧ t.pc = s.pc + 1 ∧
      t.flags = s.flags ∧ SameRegsBut [] s t ∧ SameMemBut [] s t ∧ SameRest s t) ∧
    (∃ t, exec (.dcx .sp) s = .next t ∧ t.sp.toNat = (s.sp.toNat + 65535) % 65536 ∧ t.pc = s.pc + 1 ∧
      t.flags = s.flags ∧ SameRegsBut [] s t ∧ SameMemBut [] s t ∧ SameRest s t)

/-- 41_arithmetic.md R144: DAD adds a pair or SP to HL; of the flags only CY is written, from the 16-bit overflow.
How each is encoded and fetched is stated as well (R69, R71 to R78, R90). -/
def Obligations.DadAddsToHl : Prop :=
  (∀ rp, Encoded (.dad rp) (code1 (0x09 + 16 * regPairCode rp))) ∧
  ∀ (s : State) (q : RegPair), ∃ t, exec (.dad q) s = .next t ∧
    (t.pair .hl).toNat = ((s.pair .hl).toNat + (s.regPair q).toNat) % 65536 ∧
    OnlyCy ((s.pair .hl).toNat + (s.regPair q).toNat > 65535) s t ∧ RegisterForm 1 [.h, .l] s t ∧
    s.regPair .bc = s.pair .bc ∧ s.regPair .de = s.pair .de ∧ s.regPair .hl = s.pair .hl ∧ s.regPair .sp = s.sp

/-- 41_arithmetic.md R145: DAA adds the correction the original nibbles, AC and CY give, and CY is `hic`.
How each is encoded and fetched is stated as well (R69, R71 to R78, R90). -/
def Obligations.DaaAddsCorrection : Prop :=
  Encoded .daa (code1 0x27) ∧
  ∀ s : State, ∃ t corr hic, exec .daa s = .next t ∧
    (hic = true ↔ (s.reg .a).toNat / 16 > 9 ∨ s.flags.cy = true ∨
      ((s.reg .a).toNat / 16 = 9 ∧ (s.reg .a).toNat % 16 > 9)) ∧
    corr = (if (s.reg .a).toNat % 16 > 9 ∨ s.flags.ac = true then 6 else 0) + (if hic = true then 96 else 0) ∧
    (t.reg .a).toNat = ((s.reg .a).toNat + corr) % 256 ∧ SzpOf (t.reg .a) t.flags ∧ t.flags.cy = hic ∧
    (t.flags.ac = true ↔ (s.reg .a).toNat % 16 + corr % 16 > 15) ∧ RegisterForm 1 [.a] s t

/-- 41_arithmetic.md R145, section 7 ("DAA adjusts A to two BCD digits after an addition"): ADC and then DAA add two
decimal numbers and a carry. -/
def Obligations.DaaGivesDecimalSum : Prop :=
  ∀ (s : State) (r : Reg) (x y : Nat), x < 100 → y < 100 → s.reg .a = bcd x → s.reg r = bcd y →
    ∃ t u, exec (.adcR r) s = .next t ∧ exec .daa t = .next u ∧
      u.reg .a = bcd ((x + y + s.flags.cy.toNat) % 100) ∧
      (u.flags.cy = true ↔ x + y + s.flags.cy.toNat ≥ 100)

/-! ## Logical operations, rotates, carry -/

/-- 42_logical_rotate.md R160 to R169: every logical operation, under both settings of `AC_ANA_MODE`.
How each is encoded and fetched is stated as well (R69, R71 to R78, R90). -/
def Obligations.LogicalOperationsClearCarry : Prop :=
  (∀ r, Encoded (.anaR r) (code1 (0xA0 + regCode r))) ∧ Encoded .anaM (code1 0xA6) ∧
  (∀ v, Encoded (.ani v) (code2 0xE6 v)) ∧ (∀ r, Encoded (.xraR r) (code1 (0xA8 + regCode r))) ∧
  Encoded .xraM (code1 0xAE) ∧ (∀ v, Encoded (.xri v) (code2 0xEE v)) ∧
  (∀ r, Encoded (.oraR r) (code1 (0xB0 + regCode r))) ∧ Encoded .oraM (code1 0xB6) ∧
  (∀ v, Encoded (.ori v) (code2 0xF6 v)) ∧
  ∀ s : State,
    (∀ r, ∃ t, exec (.anaR r) s = .next t ∧ LogicResult 1 (s.reg .a &&& s.reg r) (AnaAc s (s.reg r)) s t) ∧
    (∀ d8, ∃ t, exec (.ani d8) s = .next t ∧ LogicResult 2 (s.reg .a &&& d8) (AnaAc s d8) s t) ∧
    (∀ r, ∃ t, exec (.xraR r) s = .next t ∧ LogicResult 1 (s.reg .a ^^^ s.reg r) False s t) ∧
    (∀ d8, ∃ t, exec (.xri d8) s = .next t ∧ LogicResult 2 (s.reg .a ^^^ d8) False s t) ∧
    (∀ r, ∃ t, exec (.oraR r) s = .next t ∧ LogicResult 1 (s.reg .a ||| s.reg r) False s t) ∧
    (∀ d8, ∃ t, exec (.ori d8) s = .next t ∧ LogicResult 2 (s.reg .a ||| d8) False s t) ∧
    (InRange s s.hl →
      (∃ t, exec .anaM s = .next t ∧
        LogicResult 1 (s.reg .a &&& byteAt s s.hl) (AnaAc s (byteAt s s.hl)) s t) ∧
      (∃ t, exec .xraM s = .next t ∧ LogicResult 1 (s.reg .a ^^^ byteAt s s.hl) False s t) ∧
      (∃ t, exec .oraM s = .next t ∧ LogicResult 1 (s.reg .a ||| byteAt s s.hl) False s t)) ∧
    ByteFault s s.hl (exec .anaM s) ∧ ByteFault s s.hl (exec .xraM s) ∧ ByteFault s s.hl (exec .oraM s)

/-- 42_logical_rotate.md R170 to R173: the four rotates, which write A and CY only.
How each is encoded and fetched is stated as well (R69, R71 to R78, R90). -/
def Obligations.RotatesWriteAccumulatorAndCarry : Prop :=
  Encoded .rlc (code1 0x07) ∧ Encoded .rrc (code1 0x0F) ∧ Encoded .ral (code1 0x17) ∧ Encoded .rar (code1 0x1F) ∧
  ∀ s : State,
    (∃ t, exec .rlc s = .next t ∧
      (t.reg .a).toNat = 2 * (s.reg .a).toNat % 256 + (s.reg .a).toNat / 128 ∧
      OnlyCy ((s.reg .a).toNat / 128 = 1) s t ∧ RegisterForm 1 [.a] s t) ∧
    (∃ t, exec .rrc s = .next t ∧
      (t.reg .a).toNat = (s.reg .a).toNat / 2 + 128 * ((s.reg .a).toNat % 2) ∧
      OnlyCy ((s.reg .a).toNat % 2 = 1) s t ∧ RegisterForm 1 [.a] s t) ∧
    (∃ t, exec .ral s = .next t ∧
      (t.reg .a).toNat = 2 * (s.reg .a).toNat % 256 + s.flags.cy.toNat ∧
      OnlyCy ((s.reg .a).toNat / 128 = 1) s t ∧ RegisterForm 1 [.a] s t) ∧
    (∃ t, exec .rar s = .next t ∧
      (t.reg .a).toNat = (s.reg .a).toNat / 2 + 128 * s.flags.cy.toNat ∧
      OnlyCy ((s.reg .a).toNat % 2 = 1) s t ∧ RegisterForm 1 [.a] s t)

/-- 42_logical_rotate.md R170 to R173, corner cases ("Eight RLCs restore A"; "nine RALs restore both A and CY"), and the
same of RRC and RAR. -/
def Obligations.RotatesReturnAfterFullTurn : Prop :=
  ∀ s : State,
    (∃ t, execTimes .rlc 8 s = .next t ∧ t.regs = s.regs ∧ (t.flags.cy = true ↔ (s.reg .a).toNat % 2 = 1)) ∧
    (∃ t, execTimes .rrc 8 s = .next t ∧ t.regs = s.regs ∧ (t.flags.cy = true ↔ (s.reg .a).toNat / 128 = 1)) ∧
    execTimes .ral 9 s = .next { s with pc := s.pc + 9 } ∧
    execTimes .rar 9 s = .next { s with pc := s.pc + 9 }

/-- 42_logical_rotate.md R174 to R176: CMA complements A and writes no flag; STC and CMC write CY only.
How each is encoded and fetched is stated as well (R69, R71 to R78, R90). -/
def Obligations.ComplementAndCarryInstructions : Prop :=
  Encoded .cma (code1 0x2F) ∧ Encoded .stc (code1 0x37) ∧ Encoded .cmc (code1 0x3F) ∧
  ∀ s : State,
    (∃ t, exec .cma s = .next t ∧ (t.reg .a).toNat = 255 - (s.reg .a).toNat ∧ t.flags = s.flags ∧
      RegisterForm 1 [.a] s t) ∧
    (∃ t, exec .stc s = .next t ∧ OnlyCy True s t ∧ RegisterForm 1 [] s t) ∧
    (∃ t, exec .cmc s = .next t ∧ OnlyCy (s.flags.cy = false) s t ∧ RegisterForm 1 [] s t)

/-! ## Branches -/

/-- 43_branch.md R181, R182, R183, R189: the jumps.
How each is encoded and fetched is stated as well (R69, R71 to R78, R90). -/
def Obligations.JumpsWriteOnlyPc : Prop :=
  (∀ v, Encoded (.jmp v) (code3 0xC3 v)) ∧ (∀ cc v, Encoded (.jcc cc v) (code3 (0xC2 + 8 * condCode cc) v)) ∧
  Encoded .pchl (code1 0xE9) ∧
  ∀ s : State,
    (∀ a16, ∃ t, exec (.jmp a16) s = .next t ∧ JumpForm a16 s t) ∧
    (∀ cc a16, (CondTrue cc s.flags → ∃ t, exec (.jcc cc a16) s = .next t ∧ JumpForm a16 s t) ∧
      (¬CondTrue cc s.flags → ∃ t, exec (.jcc cc a16) s = .next t ∧ JumpForm (s.pc + 3) s t)) ∧
    (∃ t, exec .pchl s = .next t ∧ JumpForm s.hl s t)

/-- 43_branch.md R184, R185: a call taken pushes the address of the instruction after it and jumps; not taken, it goes on
with SP and memory unchanged.
How each is encoded and fetched is stated as well (R69, R71 to R78, R90). -/
def Obligations.CallsPushReturnAddress : Prop :=
  (∀ v, Encoded (.call v) (code3 0xCD v)) ∧ (∀ cc v, Encoded (.ccc cc v) (code3 (0xC4 + 8 * condCode cc) v)) ∧
  ∀ s : State, s.mem.wf = true →
    (∀ a16, (CanPush s → ∃ t, exec (.call a16) s = .next t ∧ Pushes (s.pc + 3) s t ∧ BranchForm a16 s t) ∧
      PushFaults s (exec (.call a16) s)) ∧
    (∀ cc a16, (CondTrue cc s.flags →
        (CanPush s → ∃ t, exec (.ccc cc a16) s = .next t ∧ Pushes (s.pc + 3) s t ∧ BranchForm a16 s t) ∧
        PushFaults s (exec (.ccc cc a16) s)) ∧
      (¬CondTrue cc s.flags → ∃ t, exec (.ccc cc a16) s = .next t ∧ JumpForm (s.pc + 3) s t))

/-- 43_branch.md R188 (the pushed address is the spec's decision D18): RST n pushes the address after it and jumps to 8·n.
How each is encoded and fetched is stated as well (R69, R71 to R78, R90). -/
def Obligations.RstCallsItsVector : Prop :=
  (∀ n, n < 8 → Encoded (.rst n) (code1 (0xC7 + 8 * n))) ∧
  ∀ (s : State) (n : Nat), s.mem.wf = true → n < 8 →
    (CanPush s → ∃ t, exec (.rst n) s = .next t ∧ Pushes (s.pc + 1) s t ∧ BranchForm t.pc s t ∧ t.pc.toNat = 8 * n) ∧
    PushFaults s (exec (.rst n) s)

/-- 43_branch.md R186, R187: a return taken pops PC; not taken, it goes on and reads no stack byte.
How each is encoded and fetched is stated as well (R69, R71 to R78, R90). -/
def Obligations.ReturnsPopPc : Prop :=
  Encoded .ret (code1 0xC9) ∧ (∀ cc, Encoded (.rcc cc) (code1 (0xC0 + 8 * condCode cc))) ∧
  ∀ s : State,
    (WordInRange s s.sp → ∃ t, exec .ret s = .next t ∧ t.pc.toNat = stackTop s ∧ t.sp = s.sp + 2 ∧
      BranchForm t.pc s t ∧ SameMemBut [] s t) ∧
    WordFaults s s.sp (exec .ret s) ∧
    (∀ cc, (CondTrue cc s.flags →
        (WordInRange s s.sp → ∃ t, exec (.rcc cc) s = .next t ∧ t.pc.toNat = stackTop s ∧ t.sp = s.sp + 2 ∧
          BranchForm t.pc s t ∧ SameMemBut [] s t) ∧
        WordFaults s s.sp (exec (.rcc cc) s)) ∧
      (¬CondTrue cc s.flags → ∃ t, exec (.rcc cc) s = .next t ∧ JumpForm (s.pc + 1) s t))

/-- 43_branch.md R184, R186, R188: a RET right after a CALL or an RST comes back to the instruction after it, with SP as
it was. -/
def Obligations.ReturnResumesAfterCall : Prop :=
  ∀ (s : State), s.mem.wf = true → CanPush s →
    (∀ a16, ∃ t u, exec (.call a16) s = .next t ∧ exec .ret t = .next u ∧ u.pc = s.pc + 3 ∧ u.sp = s.sp ∧
      u.regs = s.regs ∧ u.flags = s.flags) ∧
    (∀ n, ∃ t u, exec (.rst n) s = .next t ∧ exec .ret t = .next u ∧ u.pc = s.pc + 1 ∧ u.sp = s.sp ∧
      u.regs = s.regs ∧ u.flags = s.flags)

/-! ## The stack -/

/-- 44_stack.md R201, R203: PUSH and POP of a register pair.
How each is encoded and fetched is stated as well (R69, R71 to R78, R90). -/
def Obligations.PushAndPopPairs : Prop :=
  (∀ rp, Encoded (.pushRp rp) (code1 (0xC5 + 16 * pairCode rp))) ∧
  (∀ rp, Encoded (.popRp rp) (code1 (0xC1 + 16 * pairCode rp))) ∧
  ∀ (s : State) (rp : Pair), s.mem.wf = true →
    (CanPush s → ∃ t, exec (.pushRp rp) s = .next t ∧ Pushes (s.pair rp) s t ∧ BranchForm (s.pc + 1) s t) ∧
    PushFaults s (exec (.pushRp rp) s) ∧
    (WordInRange s s.sp → ∃ t, exec (.popRp rp) s = .next t ∧ t.reg (pairLo rp) = byteAt s s.sp ∧
      t.reg (pairHi rp) = byteAt s (s.sp + 1) ∧ t.sp = s.sp + 2 ∧ t.pc = s.pc + 1 ∧ t.flags = s.flags ∧
      SameRegsBut [pairHi rp, pairLo rp] s t ∧ SameMemBut [] s t ∧ SameRest s t) ∧
    WordFaults s s.sp (exec (.popRp rp) s)

/-- 44_stack.md R202, R204 and 10_state.md R33, R34 (bits 5, 3 and 1 by decision D6): PUSH PSW packs A and the flags, POP
PSW unpacks them.
How each is encoded and fetched is stated as well (R69, R71 to R78, R90). -/
def Obligations.PushAndPopPsw : Prop :=
  Encoded .pushPsw (code1 0xF5) ∧ Encoded .popPsw (code1 0xF1) ∧
  ∀ s : State, s.mem.wf = true →
    (CanPush s → ∃ t v, exec .pushPsw s = .next t ∧ Pushes v s t ∧ BranchForm (s.pc + 1) s t ∧
      v.toNat / 256 = (s.reg .a).toNat ∧
      v.toNat % 256 = 128 * s.flags.s.toNat + 64 * s.flags.z.toNat + 16 * s.flags.ac.toNat +
        4 * s.flags.p.toNat + 2 + s.flags.cy.toNat) ∧
    PushFaults s (exec .pushPsw s) ∧
    (WordInRange s s.sp → ∃ t, exec .popPsw s = .next t ∧ t.reg .a = byteAt s (s.sp + 1) ∧
      (t.flags.s = true ↔ (byteAt s s.sp).toNat / 128 % 2 = 1) ∧
      (t.flags.z = true ↔ (byteAt s s.sp).toNat / 64 % 2 = 1) ∧
      (t.flags.ac = true ↔ (byteAt s s.sp).toNat / 16 % 2 = 1) ∧
      (t.flags.p = true ↔ (byteAt s s.sp).toNat / 4 % 2 = 1) ∧
      (t.flags.cy = true ↔ (byteAt s s.sp).toNat % 2 = 1) ∧ t.sp = s.sp + 2 ∧ t.pc = s.pc + 1 ∧
      SameRegsBut [.a] s t ∧ SameMemBut [] s t ∧ SameRest s t) ∧
    WordFaults s s.sp (exec .popPsw s)

/-- 10_state.md R35: unpacking a packed status byte gives the flags back, and packing an unpacked byte keeps five of its
bits. -/
def Obligations.StatusByteRoundTrip : Prop :=
  (∀ f : Flags, Flags.unpack f.pack = f) ∧ ∀ b : Byte, (Flags.unpack b).pack = (b &&& 0xD5#8) ||| 0x02#8

/-- 44_stack.md R207: a push and then a pop move a pair to a pair and bring SP back, for every SP; for PSW they bring back A
and the flags. -/
def Obligations.PushThenPopIsSymmetric : Prop :=
  ∀ s : State, s.mem.wf = true → CanPush s →
    (∀ rp rp' : Pair, ∃ t u, exec (.pushRp rp) s = .next t ∧ exec (.popRp rp') t = .next u ∧
      u.pair rp' = s.pair rp ∧ u.sp = s.sp ∧ SameRegsBut [pairHi rp', pairLo rp'] s u ∧
      byteAt u (s.sp - 1) = s.reg (pairHi rp) ∧ byteAt u (s.sp - 2) = s.reg (pairLo rp)) ∧
    (∃ t u, exec .pushPsw s = .next t ∧ exec .popPsw t = .next u ∧ u.regs = s.regs ∧ u.flags = s.flags ∧
      u.sp = s.sp)

/-- 44_stack.md R205 (the order of its accesses is the spec's decision D21), R206: XTHL exchanges HL and the word at SP;
SPHL copies HL to SP.
How each is encoded and fetched is stated as well (R69, R71 to R78, R90). -/
def Obligations.XthlAndSphl : Prop :=
  Encoded .xthl (code1 0xE3) ∧ Encoded .sphl (code1 0xF9) ∧
  ∀ s : State, s.mem.wf = true →
    (WordInRange s s.sp → ∃ t, exec .xthl s = .next t ∧ t.reg .l = byteAt s s.sp ∧ t.reg .h = byteAt s (s.sp + 1) ∧
      byteAt t s.sp = s.reg .l ∧ byteAt t (s.sp + 1) = s.reg .h ∧ t.sp = s.sp ∧ t.pc = s.pc + 1 ∧
      t.flags = s.flags ∧ SameRegsBut [.h, .l] s t ∧ SameMemBut [s.sp, s.sp + 1] s t ∧ SameRest s t) ∧
    WordFaults s s.sp (exec .xthl s) ∧
    (∃ t, exec .sphl s = .next t ∧ t.sp = s.hl ∧ t.pc = s.pc + 1 ∧ t.flags = s.flags ∧ SameRegsBut [] s t ∧
      SameMemBut [] s t ∧ SameRest s t)

/-! ## I/O, devices and the special group -/

/-- 45_io_special.md R210, 60_exceptions.md R242, R245, R246 (port numbers D22, unmapped ports D28, draws D36; log entries
5 and 6): IN makes one call, and A takes its byte. A draw is the first byte the host has ready, or a free value.
How each is encoded and fetched is stated as well (R69, R71 to R78, R90). -/
def Obligations.InReadsItsPort : Prop :=
  (∀ v, Encoded (.inP v) (code2 0xDB v)) ∧
  ∀ (s : State) (p : Byte), ∃ t, exec (.inP p) s = .next t ∧
    t.events = s.events ++ [.input p (t.reg .a)] ∧ t.flags = s.flags ∧ t.pc = s.pc + 2 ∧ t.sp = s.sp ∧
    SameRegsBut [.a] s t ∧ SameMemBut [] s t ∧ t.ie = s.ie ∧ t.halted = s.halted ∧ t.dev = s.dev ∧
    t.cyc = s.cyc ∧ t.fc = s.fc ∧ t.nextVec = s.nextVec ∧ t.half = s.half ∧ t.cfg = s.cfg ∧
    (s.cfg.ports = .arcade → p.toNat = 3 →
      (t.reg .a).toNat = s.dev.shift.toNat / 2 ^ (8 - s.dev.shiftOff.toNat) % 256 ∧
      t.inputs = s.inputs ∧ t.draws = s.draws) ∧
    (s.cfg.ports = .arcade → 3 < p.toNat → t.reg .a = 0 ∧ t.inputs = s.inputs ∧ t.draws = s.draws) ∧
    (s.cfg.ports = .external ∨ p.toNat < 3 →
      (∀ v rest, s.inputs = v :: rest → t.reg .a = v ∧ t.inputs = rest ∧ t.draws = s.draws) ∧
      (s.inputs = [] → t.inputs = [] ∧ t.draws = s.draws + 1))

/-- 45_io_special.md R211, 60_exceptions.md R240 to R246 (port numbers D22, unmapped ports D28, event order D35; log entries
6 and 7): OUT makes one call with A, and in the arcade map each port has its effect and no other.
How each is encoded and fetched is stated as well (R69, R71 to R78, R90). -/
def Obligations.OutWritesItsPort : Prop :=
  (∀ v, Encoded (.outP v) (code2 0xD3 v)) ∧
  ∀ (s : State) (p : Byte), ∃ t ev, exec (.outP p) s = .next t ∧
    t.events = s.events ++ .output p (s.reg .a) :: ev ∧ t.flags = s.flags ∧ t.pc = s.pc + 2 ∧ t.sp = s.sp ∧
    SameRegsBut [] s t ∧ SameMemBut [] s t ∧ t.ie = s.ie ∧ t.halted = s.halted ∧ t.cyc = s.cyc ∧ t.fc = s.fc ∧
    t.nextVec = s.nextVec ∧ t.half = s.half ∧ t.cfg = s.cfg ∧ t.inputs = s.inputs ∧ t.draws = s.draws ∧
    (s.cfg.ports = .external → t.dev = s.dev ∧ ev = []) ∧
    (s.cfg.ports = .arcade →
      (p.toNat = 2 → t.dev = { s.dev with shiftOff := t.dev.shiftOff } ∧
        t.dev.shiftOff.toNat = (s.reg .a).toNat % 8 ∧ ev = []) ∧
      (p.toNat = 3 → t.dev = { s.dev with sound1 := s.reg .a } ∧
        ev = (risingBits s.dev.sound1 (s.reg .a)).map (.sound .one)) ∧
      (p.toNat = 4 → t.dev = { s.dev with shift := t.dev.shift } ∧
        t.dev.shift.toNat = 256 * (s.reg .a).toNat + s.dev.shift.toNat / 256 ∧ ev = []) ∧
      (p.toNat = 5 → t.dev = { s.dev with sound2 := s.reg .a } ∧
        ev = (risingBits s.dev.sound2 (s.reg .a)).map (.sound .two)) ∧
      (p.toNat = 6 → t.dev = { s.dev with watchdog := s.reg .a } ∧ ev = []) ∧
      (p.toNat < 2 ∨ 6 < p.toNat → t.dev = s.dev ∧ ev = []))

/-- 60_exceptions.md R240 to R242 (port numbers D22): two bytes written to the shift-data port and an offset give the eight
bits of the first that the offset brings into the window. -/
def Obligations.ShiftRegisterExtractsWindow : Prop :=
  ∀ (d : Devices) (x y off : Byte),
    let e := (((d.portWrite 4 x).1.portWrite 4 y).1.portWrite 2 off).1
    ∃ v, e.portValue 3 = some v ∧
      v.toNat = (256 * y.toNat + x.toNat) * 2 ^ (off.toNat % 8) / 256 % 256

/-- 60_exceptions.md R243 (event order D35): a second write of the same byte triggers nothing, a falling bit triggers
nothing, and a newly set bit triggers exactly one event. -/
def Obligations.SoundsTriggerOnRisingEdges : Prop :=
  ∀ (bank : SoundBank) (latch v : Byte),
    soundEvents bank v v = [] ∧ soundEvents bank latch 0 = [] ∧
    (soundEvents bank latch v).Nodup ∧
    ∀ b i, HostEvent.sound b i ∈ soundEvents bank latch v ↔
      b = bank ∧ i < 8 ∧ v.toNat / 2 ^ i % 2 = 1 ∧ latch.toNat / 2 ^ i % 2 = 0

/-- 45_io_special.md R212 (no delay: decision D8, log entry 17), R213, R214, R215: EI, DI, HLT and NOP.
How each is encoded and fetched is stated as well (R69, R71 to R78, R90). -/
def Obligations.SpecialInstructions : Prop :=
  Encoded .ei (code1 0xFB) ∧ Encoded .di (code1 0xF3) ∧ Encoded .hlt (code1 0x76) ∧ Encoded .nop (code1 0x00) ∧
  ∀ s : State,
    exec .ei s = .next { s with ie := true, pc := s.pc + 1 } ∧
    exec .di s = .next { s with ie := false, pc := s.pc + 1 } ∧
    exec .hlt s = .next { s with halted := true, pc := s.pc + 1 } ∧
    exec .nop s = .next { s with pc := s.pc + 1 }

/-! ## Interrupts and the synchronizer -/

/-- 60_exceptions.md R225, R226, R227 (`INT_CLEARS_IE`: D7; the vector: D34): a delivery is rejected while `ie` is false, and
else it saves PC on the stack, clears `halted` and jumps, or reports the first address outside the memory. -/
def Obligations.InterruptDelivery : Prop :=
  ∀ (s : State) (vec : Word), s.mem.wf = true →
    (s.ie = false → interrupt vec s = .next .rejected) ∧
    (s.ie = true →
      (CanPush s → ∃ t, interrupt vec s = .next (.accepted t) ∧ Pushes s.pc s t ∧ t.pc = vec ∧ t.halted = false ∧
        t.ie = (!s.cfg.intClearsIe) ∧ t.regs = s.regs ∧ t.flags = s.flags ∧ t.cyc = s.cyc ∧ t.fc = s.fc ∧
        t.nextVec = s.nextVec ∧ t.half = s.half ∧ t.dev = s.dev ∧ t.cfg = s.cfg ∧ t.inputs = s.inputs ∧
        t.draws = s.draws ∧ t.events = s.events) ∧
      (¬InRange s (s.sp - 1) → interrupt vec s = .fault (.memoryOutOfBounds (s.sp - 1))) ∧
      (InRange s (s.sp - 1) → ¬InRange s (s.sp - 2) →
        interrupt vec s = .fault (.memoryOutOfBounds (s.sp - 2))))

/-- 60_exceptions.md R230, R233, R234 (decisions D9, D16, D17; log entry 2): at a delivery point the synchronizer offers
`next_vec` and toggles it, accepted or not; the second point of a frame ends it. -/
def Obligations.DeliveryPointOffersAndToggles : Prop :=
  ∀ s : State, s.cfg.runner = .synchronizer → burstTarget s ≤ s.fc →
    (s.ie = false → ∃ t, step s = .next t ∧ t.nextVec ≠ s.nextVec ∧ t.half ≠ s.half ∧
      (s.half = .first → t.fc = s.fc) ∧ (s.half = .second → t.fc = s.fc - s.cfg.frameCycles) ∧
      { t with nextVec := s.nextVec, half := s.half, fc := s.fc } = s) ∧
    (s.ie = true → s.mem.wf = true → CanPush s → ∃ t, step s = .next t ∧ t.nextVec ≠ s.nextVec ∧ t.half ≠ s.half ∧
      (s.half = .first → t.fc = s.fc + s.cfg.intCycles) ∧
      (s.half = .second → t.fc = s.fc + s.cfg.intCycles - s.cfg.frameCycles) ∧
      t.pc = (if s.nextVec = .a then s.cfg.vecA else s.cfg.vecB) ∧ Pushes s.pc s t ∧ t.halted = false ∧
      t.ie = (!s.cfg.intClearsIe) ∧ t.regs = s.regs ∧ t.flags = s.flags ∧ t.cyc = s.cyc ∧ t.dev = s.dev ∧
      t.cfg = s.cfg)

/-- The reset states of both configurations meet the invariant. -/
def Obligations.ResetMeetsInvariant : Prop :=
  State.reset.Inv ∧ State.reset.TimingInv ∧ TimedConfig State.reset.cfg ∧ (State.resetWith Config.conformance).Inv

/-- Every step keeps the invariant: memory canonical, nothing outside it, A at the half-frame point and B at the end
(20_memory.md R51, R52; 60_exceptions.md R233). -/
def Obligations.StepKeepsInvariant : Prop :=
  ∀ s t : State, s.Inv → step s = .next t → t.Inv

/-- 60_exceptions.md R231, R234: with the standard cycle table a burst overshoots its target by at most 17, and the frame
that ends leaves at most 17 and twice the interrupt cost in `fc`. -/
def Obligations.StepKeepsTimingBound : Prop :=
  ∀ s t : State, s.cfg.runner = .synchronizer → TimedConfig s.cfg → s.TimingInv → step s = .next t →
    t.TimingInv ∧ (s.half = .second → t.half = .first → t.fc ≤ 17 + 2 * s.cfg.intCycles)

/-! ## Rules about all instructions and all steps -/

/-- 30_encoding.md R93: a Step of a sequential opcode moves PC by the opcode's length, whatever its operands; and so does
`exec` of every sequential instruction. -/
def Obligations.SequentialPcAdvance : Prop :=
  (∀ (s t : State) (c : Nat), cpuStep s = .ok c t → branchingOpcode (byteAt s s.pc) = false →
    t.pc = s.pc + BitVec.ofNat 16 (lengthOf (byteAt s s.pc))) ∧
  ∀ (i : Instr) (s t : State), branching i = false → exec i s = .next t →
    t.pc = s.pc + BitVec.ofNat 16 (lengthOf i.opcode)

/-- 10_state.md R30: a flag an instruction does not name keeps its value. -/
def Obligations.UntouchedFlagsRetainValue : Prop :=
  ∀ (i : Instr) (s t : State), exec i s = .next t →
    ((writtenFlags i).s = false → t.flags.s = s.flags.s) ∧ ((writtenFlags i).z = false → t.flags.z = s.flags.z) ∧
    ((writtenFlags i).ac = false → t.flags.ac = s.flags.ac) ∧ ((writtenFlags i).p = false → t.flags.p = s.flags.p) ∧
    ((writtenFlags i).cy = false → t.flags.cy = s.flags.cy)

/-- 10_state.md R21, R27: an instruction writes no register but those its rule names, and SP only where R27 lists it. -/
def Obligations.RegistersWrittenOnlyByRule : Prop :=
  ∀ (i : Instr) (s t : State), exec i s = .next t →
    SameRegsBut (writtenRegs i) s t ∧ (mayWriteSp i = false → t.sp = s.sp)

/-- 20_memory.md R52, R58: an instruction changes no byte of memory but those it stores to. -/
def Obligations.MemoryWrittenOnlyByStores : Prop :=
  ∀ (i : Instr) (s t : State), s.mem.wf = true → exec i s = .next t → SameMemBut (storeAddresses s i) s t

/-- 10_state.md R36, R37 and 20_memory.md R68: of all instructions only EI and DI write `ie`, only HLT writes `halted`, only
IN and OUT reach the ports, and none touches the cycle counters, the alternator or the parameters. -/
def Obligations.MachineStateWrittenOnlyByRule : Prop :=
  ∀ (i : Instr) (s t : State), exec i s = .next t →
    (i ≠ .ei → i ≠ .di → t.ie = s.ie) ∧ (i ≠ .hlt → t.halted = s.halted) ∧
    ((∀ p, i ≠ .outP p) → t.dev = s.dev) ∧
    ((∀ p, i ≠ .inP p) → t.inputs = s.inputs ∧ t.draws = s.draws) ∧
    ((∀ p, i ≠ .inP p) → (∀ p, i ≠ .outP p) → t.events = s.events) ∧
    t.cyc = s.cyc ∧ t.fc = s.fc ∧ t.nextVec = s.nextVec ∧ t.half = s.half ∧ t.cfg = s.cfg

/-- 10_state.md R37: nothing revives a halted CPU but an accepted interrupt. -/
def Obligations.OnlyDeliveryRevives : Prop :=
  ∀ s t : State, s.halted = true → step s = .next t → t.halted = false →
    s.ie = true ∧ s.cfg.runner = .synchronizer ∧ burstTarget s ≤ s.fc ∧
    t.pc = (if s.nextVec = .a then s.cfg.vecA else s.cfg.vecB)

/-- 10_state.md R38, R41: the cycle count only grows, the parameters never change, and what the host has seen stays. -/
def Obligations.CycleCountOnlyGrows : Prop :=
  ∀ s t : State, step s = .next t → s.cyc ≤ t.cyc ∧ t.cfg = s.cfg ∧ ∃ e, t.events = s.events ++ e

/-- 70_reset_and_hazards.md R264 (decision D23, log entry 4): the harness intercepts PC = 0x0005, prints and returns, and
ends the run at PC = 0x0000; and a run passes with a banner exactly when it reaches that end with the banner printed
(log entry 27). -/
def Obligations.HarnessInterceptsAndEnds : Prop :=
  ∀ s : State, s.cfg.runner = .harness →
    (∀ banner, PassesWith banner s ↔
      ∃ t, Reaches s t ∧ t.pc = 0x0000#16 ∧ step t = .fault .harnessEnd ∧ t.printed = banner) ∧
    (s.pc = 0x0000#16 → step s = .fault .harnessEnd) ∧
    (s.pc = 0x0005#16 → WordInRange s s.sp → ∀ cs : List Byte,
      ((s.reg .c = 9 ∧ cs.length < 65536 ∧
          (∀ k, k < cs.length → InRange s (s.pair .de + BitVec.ofNat 16 k) ∧
            cs[k]? = some (byteAt s (s.pair .de + BitVec.ofNat 16 k)) ∧
            byteAt s (s.pair .de + BitVec.ofNat 16 k) ≠ 0x24#8) ∧
          InRange s (s.pair .de + BitVec.ofNat 16 cs.length) ∧
          byteAt s (s.pair .de + BitVec.ofNat 16 cs.length) = 0x24#8) ∨
        (s.reg .c = 2 ∧ cs = [s.reg .e]) ∨ (s.reg .c ≠ 9 ∧ s.reg .c ≠ 2 ∧ cs = [])) →
      ∃ t, step s = .next t ∧ t.pc.toNat = stackTop s ∧
        { t with pc := s.pc } = { s with sp := s.sp + 2, events := s.events ++ cs.map .print })
end

