-- ==== Sys2Proof/Laws/Memory.lean ====
section
/-! SUPPORT. The laws of memory: read after write, every other address unchanged, and the canonical form, which every
write keeps and which makes equal memories equal lists. -/

namespace Sys2Proof.Machine

open Memory

/-- A canonical memory that begins at `k` is canonical, and above `k` after its first cell. -/
theorem wf_cons {k : Nat} {v : Byte} {m : Memory} (h : wf ((k, v) :: m) = true) :
    v ≠ unlisted ∧ wfAbove k m = true := by
  simpa [wf] using h

theorem wfAbove_cons {lo k : Nat} {v : Byte} {m : Memory} (h : wfAbove lo ((k, v) :: m) = true) :
    lo < k ∧ v ≠ unlisted ∧ wfAbove k m = true := by
  simpa [wfAbove, and_assoc] using h

/-- A lower bound can be lowered. -/
theorem wfAbove_mono {lo lo' : Nat} {m : Memory} (hl : lo' ≤ lo) (h : wfAbove lo m = true) : wfAbove lo' m = true := by
  cases m with
  | nil => rfl
  | cons cell m =>
    obtain ⟨h1, h2, h3⟩ := wfAbove_cons h
    simp [wfAbove, h2, h3]
    omega

theorem wf_of_wfAbove {lo : Nat} {m : Memory} (h : wfAbove lo m = true) : wf m = true := by
  cases m with
  | nil => rfl
  | cons cell m =>
    obtain ⟨-, h2, h3⟩ := wfAbove_cons h
    simp [wf, h2, h3]

/-- Nothing is listed at or below the bound. -/
theorem read_of_wfAbove {lo a : Nat} {m : Memory} (h : wfAbove lo m = true) (ha : a ≤ lo) : m.read a = unlisted := by
  induction m generalizing lo with
  | nil => rfl
  | cons cell m ih =>
    obtain ⟨h1, -, h3⟩ := wfAbove_cons h
    have hne : a ≠ cell.1 := by omega
    simp [Memory.read, hne, ih h3 (by omega)]

theorem wfAbove_write {lo a : Nat} {v : Byte} {m : Memory} (h : wfAbove lo m = true) (ha : lo < a) :
    wfAbove lo (m.write a v) = true := by
  induction m generalizing lo with
  | nil => by_cases hv : v = unlisted <;> simp [Memory.write, wfAbove, hv, ha]
  | cons cell m ih =>
    obtain ⟨h1, h2, h3⟩ := wfAbove_cons h
    simp only [Memory.write]
    split
    · split
      · exact h
      · next hk hv => simp [wfAbove, ha, hv, hk, h2, h3]
    · split
      · next hka =>
        split
        · exact wfAbove_mono (by omega) h3
        · next hv => subst hka; simp [wfAbove, ha, hv, h3]
      · simp [wfAbove, h1, h2, ih h3 (by omega)]

/-- A write keeps the canonical form. -/
theorem wf_write {m : Memory} (h : m.wf = true) (a : Nat) (v : Byte) : (m.write a v).wf = true := by
  cases m with
  | nil => by_cases hv : v = unlisted <;> simp [Memory.write, wf, wfAbove, hv]
  | cons cell m =>
    obtain ⟨h2, h3⟩ := wf_cons h
    simp only [Memory.write]
    split
    · split
      · exact h
      · next hk hv => simp [wf, wfAbove, hv, hk, h2, h3]
    · split
      · next hka =>
        split
        · exact wf_of_wfAbove h3
        · next hv => subst hka; simp [wf, hv, h3]
      · simp [wf, h2, wfAbove_write h3 (show cell.1 < a by omega)]

/-- A write inside the memory lists nothing outside it. -/
theorem within_write {n a : Nat} {m : Memory} (h : m.within n = true) (ha : a < n) (v : Byte) :
    (m.write a v).within n = true := by
  simp only [Memory.within, List.all_eq_true, decide_eq_true_eq] at *
  induction m with
  | nil => intro x; simp only [Memory.write]; split <;> simp; rintro rfl; exact ha
  | cons cell m ih =>
    have hc := h cell (by simp)
    have hm : ∀ x ∈ m, x.1 < n := fun x hx => h x (by simp [hx])
    intro x
    simp only [Memory.write]
    split
    · split
      · exact h x
      · simp only [List.mem_cons]; rintro (rfl | rfl | hx)
        exacts [ha, hc, hm x hx]
    · split
      · split
        · exact hm x
        · simp only [List.mem_cons]; rintro (rfl | hx)
          exacts [ha, hm x hx]
      · simp only [List.mem_cons]; rintro (rfl | hx)
        exacts [hc, ih hm x hx]

theorem read_write_of_wfAbove {lo : Nat} {m : Memory} (h : wfAbove lo m = true) (a x : Nat) (v : Byte) :
    (m.write a v).read x = if x = a then v else m.read x := by
  induction m generalizing lo with
  | nil => by_cases hv : v = unlisted <;> simp [Memory.write, Memory.read, hv]
  | cons cell m ih =>
    obtain ⟨h1, h2, h3⟩ := wfAbove_cons h
    simp only [Memory.write]
    split
    · next hk =>
      split
      · next hv =>
        split
        · next hx => rw [hx, hv]; exact read_of_wfAbove (lo := a) (by simp [wfAbove, hk, h2, h3]) (Nat.le_refl a)
        · rfl
      · simp [Memory.read]
    · split
      · next hka =>
        split
        · next hv =>
          split
          · next hx => rw [hx, hv, hka]; exact read_of_wfAbove h3 (Nat.le_refl _)
          · next hx => simp [Memory.read, show x ≠ cell.1 by omega]
        · by_cases hx : x = a <;> simp [Memory.read, hx, ← hka]
      · by_cases hx : x = cell.1
        · simp [Memory.read, hx, show cell.1 ≠ a by omega]
        · simp [Memory.read, hx, ih h3]

/-- Read after write: the byte written at its address, and at every other address what stood there (R52). -/
theorem read_write {m : Memory} (h : m.wf = true) (a x : Nat) (v : Byte) :
    (m.write a v).read x = if x = a then v else m.read x := by
  cases m with
  | nil => by_cases hv : v = unlisted <;> simp [Memory.write, Memory.read, hv]
  | cons cell m =>
    obtain ⟨h2, h3⟩ := wf_cons h
    rcases Nat.eq_zero_or_pos cell.1 with h0 | h0
    · simp only [Memory.write]
      split
      · omega
      · split
        · next hka =>
          split
          · next hv =>
            split
            · next hx => rw [hx, hv, hka]; exact read_of_wfAbove h3 (Nat.le_refl _)
            · next hx => simp [Memory.read, show x ≠ cell.1 by omega]
          · by_cases hx : x = a <;> simp [Memory.read, hx, ← hka]
        · by_cases hx : x = cell.1
          · simp [Memory.read, hx, show cell.1 ≠ a by omega]
          · simp [Memory.read, hx, read_write_of_wfAbove h3]
    · exact read_write_of_wfAbove (lo := 0) (by simp [wfAbove, h0, h2, h3]) a x v

/-- The byte written is read back. -/
theorem read_write_same {m : Memory} (h : m.wf = true) (a : Nat) (v : Byte) : (m.write a v).read a = v := by
  simp [read_write h]

/-- A write leaves every other address alone. -/
theorem read_write_other {m : Memory} (h : m.wf = true) {a x : Nat} (v : Byte) (hx : x ≠ a) :
    (m.write a v).read x = m.read x := by
  simp [read_write h, hx]

/-- Two canonical memories above one bound that read alike everywhere are the same list. -/
theorem eq_of_read_wfAbove {lo : Nat} {m n : Memory} (hm : wfAbove lo m = true) (hn : wfAbove lo n = true)
    (h : ∀ a, m.read a = n.read a) : m = n := by
  induction m generalizing lo n with
  | nil =>
    cases n with
    | nil => rfl
    | cons cell n =>
      have := h cell.1
      simp [Memory.read] at this
      exact absurd this.symm (wfAbove_cons hn).2.1
  | cons cell m ih =>
    obtain ⟨h1, h2, h3⟩ := wfAbove_cons hm
    cases n with
    | nil =>
      have := h cell.1
      simp [Memory.read] at this
      exact absurd this h2
    | cons cell' n =>
      obtain ⟨g1, g2, g3⟩ := wfAbove_cons hn
      have key : cell.1 = cell'.1 := by
        rcases Nat.lt_trichotomy cell.1 cell'.1 with hlt | heq | hlt
        · have := h cell.1
          rw [read_of_wfAbove (lo := cell.1) (m := cell' :: n) (by simp [wfAbove, hlt, g2, g3]) (Nat.le_refl _)] at this
          simp [Memory.read] at this
          exact absurd this h2
        · exact heq
        · have := h cell'.1
          rw [read_of_wfAbove (lo := cell'.1) (m := cell :: m) (by simp [wfAbove, hlt, h2, h3]) (Nat.le_refl _)] at this
          simp [Memory.read] at this
          exact absurd this.symm g2
      obtain ⟨k, v⟩ := cell
      obtain ⟨k', v'⟩ := cell'
      obtain rfl : k = k' := key
      have hv : v = v' := by simpa [Memory.read] using h k
      subst hv
      congr 1
      refine ih h3 g3 fun a => ?_
      by_cases ha : a = k
      · subst ha; rw [read_of_wfAbove h3 (Nat.le_refl _), read_of_wfAbove g3 (Nat.le_refl _)]
      · simpa [Memory.read, ha] using h a

end Sys2Proof.Machine
end

