-- ==== Sys2Proof/Laws/State.lean ====
section
/-! SUPPORT. What each named update of the state does to each field: one lemma per field per update, so that no
later proof unfolds an update. -/

namespace Sys2Proof.Machine

variable (s : State)


/-! ### setPc -/

@[simp] theorem setPc_regs (v : Word) : (s.setPc v).regs = s.regs := rfl
@[simp] theorem setPc_flags (v : Word) : (s.setPc v).flags = s.flags := rfl
@[simp] theorem setPc_pc (v : Word) : (s.setPc v).pc = v := rfl
@[simp] theorem setPc_sp (v : Word) : (s.setPc v).sp = s.sp := rfl
@[simp] theorem setPc_ie (v : Word) : (s.setPc v).ie = s.ie := rfl
@[simp] theorem setPc_halted (v : Word) : (s.setPc v).halted = s.halted := rfl
@[simp] theorem setPc_cyc (v : Word) : (s.setPc v).cyc = s.cyc := rfl
@[simp] theorem setPc_fc (v : Word) : (s.setPc v).fc = s.fc := rfl
@[simp] theorem setPc_nextVec (v : Word) : (s.setPc v).nextVec = s.nextVec := rfl
@[simp] theorem setPc_half (v : Word) : (s.setPc v).half = s.half := rfl
@[simp] theorem setPc_mem (v : Word) : (s.setPc v).mem = s.mem := rfl
@[simp] theorem setPc_dev (v : Word) : (s.setPc v).dev = s.dev := rfl
@[simp] theorem setPc_cfg (v : Word) : (s.setPc v).cfg = s.cfg := rfl
@[simp] theorem setPc_inputs (v : Word) : (s.setPc v).inputs = s.inputs := rfl
@[simp] theorem setPc_draws (v : Word) : (s.setPc v).draws = s.draws := rfl
@[simp] theorem setPc_events (v : Word) : (s.setPc v).events = s.events := rfl

/-! ### setSp -/

@[simp] theorem setSp_regs (v : Word) : (s.setSp v).regs = s.regs := rfl
@[simp] theorem setSp_flags (v : Word) : (s.setSp v).flags = s.flags := rfl
@[simp] theorem setSp_pc (v : Word) : (s.setSp v).pc = s.pc := rfl
@[simp] theorem setSp_sp (v : Word) : (s.setSp v).sp = v := rfl
@[simp] theorem setSp_ie (v : Word) : (s.setSp v).ie = s.ie := rfl
@[simp] theorem setSp_halted (v : Word) : (s.setSp v).halted = s.halted := rfl
@[simp] theorem setSp_cyc (v : Word) : (s.setSp v).cyc = s.cyc := rfl
@[simp] theorem setSp_fc (v : Word) : (s.setSp v).fc = s.fc := rfl
@[simp] theorem setSp_nextVec (v : Word) : (s.setSp v).nextVec = s.nextVec := rfl
@[simp] theorem setSp_half (v : Word) : (s.setSp v).half = s.half := rfl
@[simp] theorem setSp_mem (v : Word) : (s.setSp v).mem = s.mem := rfl
@[simp] theorem setSp_dev (v : Word) : (s.setSp v).dev = s.dev := rfl
@[simp] theorem setSp_cfg (v : Word) : (s.setSp v).cfg = s.cfg := rfl
@[simp] theorem setSp_inputs (v : Word) : (s.setSp v).inputs = s.inputs := rfl
@[simp] theorem setSp_draws (v : Word) : (s.setSp v).draws = s.draws := rfl
@[simp] theorem setSp_events (v : Word) : (s.setSp v).events = s.events := rfl

/-! ### setIe -/

@[simp] theorem setIe_regs (v : Bool) : (s.setIe v).regs = s.regs := rfl
@[simp] theorem setIe_flags (v : Bool) : (s.setIe v).flags = s.flags := rfl
@[simp] theorem setIe_pc (v : Bool) : (s.setIe v).pc = s.pc := rfl
@[simp] theorem setIe_sp (v : Bool) : (s.setIe v).sp = s.sp := rfl
@[simp] theorem setIe_ie (v : Bool) : (s.setIe v).ie = v := rfl
@[simp] theorem setIe_halted (v : Bool) : (s.setIe v).halted = s.halted := rfl
@[simp] theorem setIe_cyc (v : Bool) : (s.setIe v).cyc = s.cyc := rfl
@[simp] theorem setIe_fc (v : Bool) : (s.setIe v).fc = s.fc := rfl
@[simp] theorem setIe_nextVec (v : Bool) : (s.setIe v).nextVec = s.nextVec := rfl
@[simp] theorem setIe_half (v : Bool) : (s.setIe v).half = s.half := rfl
@[simp] theorem setIe_mem (v : Bool) : (s.setIe v).mem = s.mem := rfl
@[simp] theorem setIe_dev (v : Bool) : (s.setIe v).dev = s.dev := rfl
@[simp] theorem setIe_cfg (v : Bool) : (s.setIe v).cfg = s.cfg := rfl
@[simp] theorem setIe_inputs (v : Bool) : (s.setIe v).inputs = s.inputs := rfl
@[simp] theorem setIe_draws (v : Bool) : (s.setIe v).draws = s.draws := rfl
@[simp] theorem setIe_events (v : Bool) : (s.setIe v).events = s.events := rfl

/-! ### setHalted -/

@[simp] theorem setHalted_regs (v : Bool) : (s.setHalted v).regs = s.regs := rfl
@[simp] theorem setHalted_flags (v : Bool) : (s.setHalted v).flags = s.flags := rfl
@[simp] theorem setHalted_pc (v : Bool) : (s.setHalted v).pc = s.pc := rfl
@[simp] theorem setHalted_sp (v : Bool) : (s.setHalted v).sp = s.sp := rfl
@[simp] theorem setHalted_ie (v : Bool) : (s.setHalted v).ie = s.ie := rfl
@[simp] theorem setHalted_halted (v : Bool) : (s.setHalted v).halted = v := rfl
@[simp] theorem setHalted_cyc (v : Bool) : (s.setHalted v).cyc = s.cyc := rfl
@[simp] theorem setHalted_fc (v : Bool) : (s.setHalted v).fc = s.fc := rfl
@[simp] theorem setHalted_nextVec (v : Bool) : (s.setHalted v).nextVec = s.nextVec := rfl
@[simp] theorem setHalted_half (v : Bool) : (s.setHalted v).half = s.half := rfl
@[simp] theorem setHalted_mem (v : Bool) : (s.setHalted v).mem = s.mem := rfl
@[simp] theorem setHalted_dev (v : Bool) : (s.setHalted v).dev = s.dev := rfl
@[simp] theorem setHalted_cfg (v : Bool) : (s.setHalted v).cfg = s.cfg := rfl
@[simp] theorem setHalted_inputs (v : Bool) : (s.setHalted v).inputs = s.inputs := rfl
@[simp] theorem setHalted_draws (v : Bool) : (s.setHalted v).draws = s.draws := rfl
@[simp] theorem setHalted_events (v : Bool) : (s.setHalted v).events = s.events := rfl

/-! ### setRegs -/

@[simp] theorem setRegs_regs (v : Regs) : (s.setRegs v).regs = v := rfl
@[simp] theorem setRegs_flags (v : Regs) : (s.setRegs v).flags = s.flags := rfl
@[simp] theorem setRegs_pc (v : Regs) : (s.setRegs v).pc = s.pc := rfl
@[simp] theorem setRegs_sp (v : Regs) : (s.setRegs v).sp = s.sp := rfl
@[simp] theorem setRegs_ie (v : Regs) : (s.setRegs v).ie = s.ie := rfl
@[simp] theorem setRegs_halted (v : Regs) : (s.setRegs v).halted = s.halted := rfl
@[simp] theorem setRegs_cyc (v : Regs) : (s.setRegs v).cyc = s.cyc := rfl
@[simp] theorem setRegs_fc (v : Regs) : (s.setRegs v).fc = s.fc := rfl
@[simp] theorem setRegs_nextVec (v : Regs) : (s.setRegs v).nextVec = s.nextVec := rfl
@[simp] theorem setRegs_half (v : Regs) : (s.setRegs v).half = s.half := rfl
@[simp] theorem setRegs_mem (v : Regs) : (s.setRegs v).mem = s.mem := rfl
@[simp] theorem setRegs_dev (v : Regs) : (s.setRegs v).dev = s.dev := rfl
@[simp] theorem setRegs_cfg (v : Regs) : (s.setRegs v).cfg = s.cfg := rfl
@[simp] theorem setRegs_inputs (v : Regs) : (s.setRegs v).inputs = s.inputs := rfl
@[simp] theorem setRegs_draws (v : Regs) : (s.setRegs v).draws = s.draws := rfl
@[simp] theorem setRegs_events (v : Regs) : (s.setRegs v).events = s.events := rfl

/-! ### setFlags -/

@[simp] theorem setFlags_regs (v : Flags) : (s.setFlags v).regs = s.regs := rfl
@[simp] theorem setFlags_flags (v : Flags) : (s.setFlags v).flags = v := rfl
@[simp] theorem setFlags_pc (v : Flags) : (s.setFlags v).pc = s.pc := rfl
@[simp] theorem setFlags_sp (v : Flags) : (s.setFlags v).sp = s.sp := rfl
@[simp] theorem setFlags_ie (v : Flags) : (s.setFlags v).ie = s.ie := rfl
@[simp] theorem setFlags_halted (v : Flags) : (s.setFlags v).halted = s.halted := rfl
@[simp] theorem setFlags_cyc (v : Flags) : (s.setFlags v).cyc = s.cyc := rfl
@[simp] theorem setFlags_fc (v : Flags) : (s.setFlags v).fc = s.fc := rfl
@[simp] theorem setFlags_nextVec (v : Flags) : (s.setFlags v).nextVec = s.nextVec := rfl
@[simp] theorem setFlags_half (v : Flags) : (s.setFlags v).half = s.half := rfl
@[simp] theorem setFlags_mem (v : Flags) : (s.setFlags v).mem = s.mem := rfl
@[simp] theorem setFlags_dev (v : Flags) : (s.setFlags v).dev = s.dev := rfl
@[simp] theorem setFlags_cfg (v : Flags) : (s.setFlags v).cfg = s.cfg := rfl
@[simp] theorem setFlags_inputs (v : Flags) : (s.setFlags v).inputs = s.inputs := rfl
@[simp] theorem setFlags_draws (v : Flags) : (s.setFlags v).draws = s.draws := rfl
@[simp] theorem setFlags_events (v : Flags) : (s.setFlags v).events = s.events := rfl

/-! ### setDev -/

@[simp] theorem setDev_regs (v : Devices) : (s.setDev v).regs = s.regs := rfl
@[simp] theorem setDev_flags (v : Devices) : (s.setDev v).flags = s.flags := rfl
@[simp] theorem setDev_pc (v : Devices) : (s.setDev v).pc = s.pc := rfl
@[simp] theorem setDev_sp (v : Devices) : (s.setDev v).sp = s.sp := rfl
@[simp] theorem setDev_ie (v : Devices) : (s.setDev v).ie = s.ie := rfl
@[simp] theorem setDev_halted (v : Devices) : (s.setDev v).halted = s.halted := rfl
@[simp] theorem setDev_cyc (v : Devices) : (s.setDev v).cyc = s.cyc := rfl
@[simp] theorem setDev_fc (v : Devices) : (s.setDev v).fc = s.fc := rfl
@[simp] theorem setDev_nextVec (v : Devices) : (s.setDev v).nextVec = s.nextVec := rfl
@[simp] theorem setDev_half (v : Devices) : (s.setDev v).half = s.half := rfl
@[simp] theorem setDev_mem (v : Devices) : (s.setDev v).mem = s.mem := rfl
@[simp] theorem setDev_dev (v : Devices) : (s.setDev v).dev = v := rfl
@[simp] theorem setDev_cfg (v : Devices) : (s.setDev v).cfg = s.cfg := rfl
@[simp] theorem setDev_inputs (v : Devices) : (s.setDev v).inputs = s.inputs := rfl
@[simp] theorem setDev_draws (v : Devices) : (s.setDev v).draws = s.draws := rfl
@[simp] theorem setDev_events (v : Devices) : (s.setDev v).events = s.events := rfl

/-! ### emit -/

@[simp] theorem emit_regs (v : List HostEvent) : (s.emit v).regs = s.regs := rfl
@[simp] theorem emit_flags (v : List HostEvent) : (s.emit v).flags = s.flags := rfl
@[simp] theorem emit_pc (v : List HostEvent) : (s.emit v).pc = s.pc := rfl
@[simp] theorem emit_sp (v : List HostEvent) : (s.emit v).sp = s.sp := rfl
@[simp] theorem emit_ie (v : List HostEvent) : (s.emit v).ie = s.ie := rfl
@[simp] theorem emit_halted (v : List HostEvent) : (s.emit v).halted = s.halted := rfl
@[simp] theorem emit_cyc (v : List HostEvent) : (s.emit v).cyc = s.cyc := rfl
@[simp] theorem emit_fc (v : List HostEvent) : (s.emit v).fc = s.fc := rfl
@[simp] theorem emit_nextVec (v : List HostEvent) : (s.emit v).nextVec = s.nextVec := rfl
@[simp] theorem emit_half (v : List HostEvent) : (s.emit v).half = s.half := rfl
@[simp] theorem emit_mem (v : List HostEvent) : (s.emit v).mem = s.mem := rfl
@[simp] theorem emit_dev (v : List HostEvent) : (s.emit v).dev = s.dev := rfl
@[simp] theorem emit_cfg (v : List HostEvent) : (s.emit v).cfg = s.cfg := rfl
@[simp] theorem emit_inputs (v : List HostEvent) : (s.emit v).inputs = s.inputs := rfl
@[simp] theorem emit_draws (v : List HostEvent) : (s.emit v).draws = s.draws := rfl
@[simp] theorem emit_events (v : List HostEvent) : (s.emit v).events = s.events ++ v := rfl

/-! ### charge -/

@[simp] theorem charge_regs (v : Nat) : (s.charge v).regs = s.regs := rfl
@[simp] theorem charge_flags (v : Nat) : (s.charge v).flags = s.flags := rfl
@[simp] theorem charge_pc (v : Nat) : (s.charge v).pc = s.pc := rfl
@[simp] theorem charge_sp (v : Nat) : (s.charge v).sp = s.sp := rfl
@[simp] theorem charge_ie (v : Nat) : (s.charge v).ie = s.ie := rfl
@[simp] theorem charge_halted (v : Nat) : (s.charge v).halted = s.halted := rfl
@[simp] theorem charge_cyc (v : Nat) : (s.charge v).cyc = s.cyc + v := rfl
@[simp] theorem charge_fc (v : Nat) : (s.charge v).fc = s.fc := rfl
@[simp] theorem charge_nextVec (v : Nat) : (s.charge v).nextVec = s.nextVec := rfl
@[simp] theorem charge_half (v : Nat) : (s.charge v).half = s.half := rfl
@[simp] theorem charge_mem (v : Nat) : (s.charge v).mem = s.mem := rfl
@[simp] theorem charge_dev (v : Nat) : (s.charge v).dev = s.dev := rfl
@[simp] theorem charge_cfg (v : Nat) : (s.charge v).cfg = s.cfg := rfl
@[simp] theorem charge_inputs (v : Nat) : (s.charge v).inputs = s.inputs := rfl
@[simp] theorem charge_draws (v : Nat) : (s.charge v).draws = s.draws := rfl
@[simp] theorem charge_events (v : Nat) : (s.charge v).events = s.events := rfl

/-! ### setFc -/

@[simp] theorem setFc_regs (v : Nat) : (s.setFc v).regs = s.regs := rfl
@[simp] theorem setFc_flags (v : Nat) : (s.setFc v).flags = s.flags := rfl
@[simp] theorem setFc_pc (v : Nat) : (s.setFc v).pc = s.pc := rfl
@[simp] theorem setFc_sp (v : Nat) : (s.setFc v).sp = s.sp := rfl
@[simp] theorem setFc_ie (v : Nat) : (s.setFc v).ie = s.ie := rfl
@[simp] theorem setFc_halted (v : Nat) : (s.setFc v).halted = s.halted := rfl
@[simp] theorem setFc_cyc (v : Nat) : (s.setFc v).cyc = s.cyc := rfl
@[simp] theorem setFc_fc (v : Nat) : (s.setFc v).fc = v := rfl
@[simp] theorem setFc_nextVec (v : Nat) : (s.setFc v).nextVec = s.nextVec := rfl
@[simp] theorem setFc_half (v : Nat) : (s.setFc v).half = s.half := rfl
@[simp] theorem setFc_mem (v : Nat) : (s.setFc v).mem = s.mem := rfl
@[simp] theorem setFc_dev (v : Nat) : (s.setFc v).dev = s.dev := rfl
@[simp] theorem setFc_cfg (v : Nat) : (s.setFc v).cfg = s.cfg := rfl
@[simp] theorem setFc_inputs (v : Nat) : (s.setFc v).inputs = s.inputs := rfl
@[simp] theorem setFc_draws (v : Nat) : (s.setFc v).draws = s.draws := rfl
@[simp] theorem setFc_events (v : Nat) : (s.setFc v).events = s.events := rfl

/-! ### advance -/

@[simp] theorem advance_regs (v : Nat) : (s.advance v).regs = s.regs := rfl
@[simp] theorem advance_flags (v : Nat) : (s.advance v).flags = s.flags := rfl
@[simp] theorem advance_pc (v : Nat) : (s.advance v).pc = s.nextPc v := rfl
@[simp] theorem advance_sp (v : Nat) : (s.advance v).sp = s.sp := rfl
@[simp] theorem advance_ie (v : Nat) : (s.advance v).ie = s.ie := rfl
@[simp] theorem advance_halted (v : Nat) : (s.advance v).halted = s.halted := rfl
@[simp] theorem advance_cyc (v : Nat) : (s.advance v).cyc = s.cyc := rfl
@[simp] theorem advance_fc (v : Nat) : (s.advance v).fc = s.fc := rfl
@[simp] theorem advance_nextVec (v : Nat) : (s.advance v).nextVec = s.nextVec := rfl
@[simp] theorem advance_half (v : Nat) : (s.advance v).half = s.half := rfl
@[simp] theorem advance_mem (v : Nat) : (s.advance v).mem = s.mem := rfl
@[simp] theorem advance_dev (v : Nat) : (s.advance v).dev = s.dev := rfl
@[simp] theorem advance_cfg (v : Nat) : (s.advance v).cfg = s.cfg := rfl
@[simp] theorem advance_inputs (v : Nat) : (s.advance v).inputs = s.inputs := rfl
@[simp] theorem advance_draws (v : Nat) : (s.advance v).draws = s.draws := rfl
@[simp] theorem advance_events (v : Nat) : (s.advance v).events = s.events := rfl

/-! ### setReg -/

@[simp] theorem setReg_regs (r : Reg) (v : Byte) : (s.setReg r v).regs = s.regs.set r v := rfl
@[simp] theorem setReg_flags (r : Reg) (v : Byte) : (s.setReg r v).flags = s.flags := rfl
@[simp] theorem setReg_pc (r : Reg) (v : Byte) : (s.setReg r v).pc = s.pc := rfl
@[simp] theorem setReg_sp (r : Reg) (v : Byte) : (s.setReg r v).sp = s.sp := rfl
@[simp] theorem setReg_ie (r : Reg) (v : Byte) : (s.setReg r v).ie = s.ie := rfl
@[simp] theorem setReg_halted (r : Reg) (v : Byte) : (s.setReg r v).halted = s.halted := rfl
@[simp] theorem setReg_cyc (r : Reg) (v : Byte) : (s.setReg r v).cyc = s.cyc := rfl
@[simp] theorem setReg_fc (r : Reg) (v : Byte) : (s.setReg r v).fc = s.fc := rfl
@[simp] theorem setReg_nextVec (r : Reg) (v : Byte) : (s.setReg r v).nextVec = s.nextVec := rfl
@[simp] theorem setReg_half (r : Reg) (v : Byte) : (s.setReg r v).half = s.half := rfl
@[simp] theorem setReg_mem (r : Reg) (v : Byte) : (s.setReg r v).mem = s.mem := rfl
@[simp] theorem setReg_dev (r : Reg) (v : Byte) : (s.setReg r v).dev = s.dev := rfl
@[simp] theorem setReg_cfg (r : Reg) (v : Byte) : (s.setReg r v).cfg = s.cfg := rfl
@[simp] theorem setReg_inputs (r : Reg) (v : Byte) : (s.setReg r v).inputs = s.inputs := rfl
@[simp] theorem setReg_draws (r : Reg) (v : Byte) : (s.setReg r v).draws = s.draws := rfl
@[simp] theorem setReg_events (r : Reg) (v : Byte) : (s.setReg r v).events = s.events := rfl

/-! ### setPair -/

@[simp] theorem setPair_regs (rp : Pair) (v : Word) : (s.setPair rp v).regs = s.regs.setPair rp v := rfl
@[simp] theorem setPair_flags (rp : Pair) (v : Word) : (s.setPair rp v).flags = s.flags := rfl
@[simp] theorem setPair_pc (rp : Pair) (v : Word) : (s.setPair rp v).pc = s.pc := rfl
@[simp] theorem setPair_sp (rp : Pair) (v : Word) : (s.setPair rp v).sp = s.sp := rfl
@[simp] theorem setPair_ie (rp : Pair) (v : Word) : (s.setPair rp v).ie = s.ie := rfl
@[simp] theorem setPair_halted (rp : Pair) (v : Word) : (s.setPair rp v).halted = s.halted := rfl
@[simp] theorem setPair_cyc (rp : Pair) (v : Word) : (s.setPair rp v).cyc = s.cyc := rfl
@[simp] theorem setPair_fc (rp : Pair) (v : Word) : (s.setPair rp v).fc = s.fc := rfl
@[simp] theorem setPair_nextVec (rp : Pair) (v : Word) : (s.setPair rp v).nextVec = s.nextVec := rfl
@[simp] theorem setPair_half (rp : Pair) (v : Word) : (s.setPair rp v).half = s.half := rfl
@[simp] theorem setPair_mem (rp : Pair) (v : Word) : (s.setPair rp v).mem = s.mem := rfl
@[simp] theorem setPair_dev (rp : Pair) (v : Word) : (s.setPair rp v).dev = s.dev := rfl
@[simp] theorem setPair_cfg (rp : Pair) (v : Word) : (s.setPair rp v).cfg = s.cfg := rfl
@[simp] theorem setPair_inputs (rp : Pair) (v : Word) : (s.setPair rp v).inputs = s.inputs := rfl
@[simp] theorem setPair_draws (rp : Pair) (v : Word) : (s.setPair rp v).draws = s.draws := rfl
@[simp] theorem setPair_events (rp : Pair) (v : Word) : (s.setPair rp v).events = s.events := rfl

/-! ### The register file -/

@[simp] theorem get_set_same (x : Regs) (r : Reg) (v : Byte) : (x.set r v).get r = v := by cases r <;> rfl

theorem get_set_other (x : Regs) {r q : Reg} (v : Byte) (h : q ≠ r) : (x.set r v).get q = x.get q := by
  cases r <;> cases q <;> first | rfl | exact absurd rfl h

theorem get_set (x : Regs) (r q : Reg) (v : Byte) : (x.set r v).get q = if q = r then v else x.get q := by
  split
  · next h => rw [h, get_set_same]
  · next h => exact get_set_other x v h

@[simp] theorem setReg_reg_same (r : Reg) (v : Byte) : (s.setReg r v).reg r = v := get_set_same ..

theorem setReg_reg (r q : Reg) (v : Byte) : (s.setReg r v).reg q = if q = r then v else s.reg q := get_set ..

/-- A write to a pair, read register by register (R22). -/
theorem get_setPair (x : Regs) (rp : Pair) (v : Word) (q : Reg) :
    (x.setPair rp v).get q = if q = pairLo rp then loByte v else if q = pairHi rp then hiByte v else x.get q := by
  simp only [Regs.setPair, get_set]

end Sys2Proof.Machine
end

