-- ==== Sys2Proof/Laws/Ops.lean ====
section
/-! SUPPORT. What each shared operation can do, said once: the provers cite these lemmas and do not unfold the
operations. -/

namespace Sys2Proof.Machine

/-! ### Sequencing -/

@[simp] theorem andThen_ok {α β : Type} (v : α) (k : α → Res β) : andThen (.next v) k = k v := rfl

@[simp] theorem andThen_stop {α β : Type} (f : Fault) (k : α → Res β) : andThen (.fault f) k = .fault f := rfl

@[simp] theorem andThen_refuse {α β : Type} (r : Refusal) (k : α → Res β) :
    andThen (.refused r) k = .refused r := rfl

/-- A sequence answers a value exactly when both parts do. -/
theorem andThen_next {α β : Type} {r : Res α} {k : α → Res β} {v : β} :
    andThen r k = .next v ↔ ∃ u, r = .next u ∧ k u = .next v := by
  cases r <;> simp [andThen]

/-- A sequence faults exactly when a part of it does. -/
theorem andThen_fault {α β : Type} {r : Res α} {k : α → Res β} {f : Fault} :
    andThen r k = .fault f ↔ r = .fault f ∨ ∃ u, r = .next u ∧ k u = .fault f := by
  cases r <;> simp [andThen]

/-- A sequence refuses exactly when a part of it does. -/
theorem andThen_refused {α β : Type} {r : Res α} {k : α → Res β} {x : Refusal} :
    andThen r k = .refused x ↔ r = .refused x ∨ ∃ u, r = .next u ∧ k u = .refused x := by
  cases r <;> simp [andThen]

/-! ### Memory access -/

/-- The state with the byte `v` at address `a`. -/
def stored (s : State) (a : Word) (v : Byte) : State := { s with mem := s.mem.write a.toNat v }

theorem read8_next {s : State} {a : Word} {v : Byte} :
    read8 s a = .next v ↔ a.toNat < s.cfg.memSize ∧ v = s.mem.read a.toNat := by
  unfold read8; split <;> simp_all [eq_comm]

theorem read8_of_lt {s : State} {a : Word} (h : a.toNat < s.cfg.memSize) :
    read8 s a = .next (s.mem.read a.toNat) := read8_next.2 ⟨h, rfl⟩

theorem read8_of_ge {s : State} {a : Word} (h : s.cfg.memSize ≤ a.toNat) :
    read8 s a = .fault (.memoryOutOfBounds a) := by
  unfold read8; split <;> first | rfl | omega

/-- A read stops only for an address outside the memory. -/
theorem read8_fault {s : State} {a : Word} {f : Fault} :
    read8 s a = .fault f ↔ s.cfg.memSize ≤ a.toNat ∧ f = .memoryOutOfBounds a := by
  unfold read8; split <;> simp_all [eq_comm]

@[simp] theorem read8_not_refused {s : State} {a : Word} {r : Refusal} : read8 s a ≠ .refused r := by
  unfold read8; split <;> simp

theorem write8_next {s t : State} {a : Word} {v : Byte} :
    write8 a v s = .next t ↔ a.toNat < s.cfg.memSize ∧ t = stored s a v := by
  unfold write8; split <;> simp_all [stored, eq_comm]

theorem write8_of_lt {s : State} {a : Word} (v : Byte) (h : a.toNat < s.cfg.memSize) :
    write8 a v s = .next (stored s a v) := write8_next.2 ⟨h, rfl⟩

theorem write8_of_ge {s : State} {a : Word} (v : Byte) (h : s.cfg.memSize ≤ a.toNat) :
    write8 a v s = .fault (.memoryOutOfBounds a) := by
  unfold write8; split <;> first | rfl | omega

/-- A write stops only for an address outside the memory. -/
theorem write8_fault {s : State} {a : Word} {v : Byte} {f : Fault} :
    write8 a v s = .fault f ↔ s.cfg.memSize ≤ a.toNat ∧ f = .memoryOutOfBounds a := by
  unfold write8; split <;> simp_all [eq_comm]

@[simp] theorem write8_not_refused {s : State} {a : Word} {v : Byte} {r : Refusal} : write8 a v s ≠ .refused r := by
  unfold write8; split <;> simp

theorem read16_next {s : State} {a : Word} {v : Word} :
    read16 s a = .next v ↔ a.toNat < s.cfg.memSize ∧ (a + 1).toNat < s.cfg.memSize ∧
      v = joinBytes (s.mem.read (a + 1).toNat) (s.mem.read a.toNat) := by
  simp only [read16, andThen_next, read8_next]
  constructor
  · rintro ⟨_, ⟨h1, rfl⟩, _, ⟨h2, rfl⟩, h3⟩; cases h3; exact ⟨h1, h2, rfl⟩
  · rintro ⟨h1, h2, rfl⟩; exact ⟨_, ⟨h1, rfl⟩, _, ⟨h2, rfl⟩, rfl⟩

theorem write16_next {s t : State} {a v : Word} :
    write16 a v s = .next t ↔ a.toNat < s.cfg.memSize ∧ (a + 1).toNat < s.cfg.memSize ∧
      t = stored (stored s a (loByte v)) (a + 1) (hiByte v) := by
  simp only [write16, andThen_next, write8_next]
  constructor
  · rintro ⟨_, ⟨h1, rfl⟩, h2, h3⟩; exact ⟨h1, h2, h3⟩
  · rintro ⟨h1, h2, h3⟩; exact ⟨_, ⟨h1, rfl⟩, h2, h3⟩

/-! ### The stack -/

/-- The state after `Push16(v)` (R200). -/
def pushed (s : State) (v : Word) : State :=
  (stored (stored s (s.sp - 1) (hiByte v)) (s.sp - 2) (loByte v)).setSp (s.sp - 2)

theorem push16_next {s t : State} {v : Word} :
    push16 v s = .next t ↔ (s.sp - 1).toNat < s.cfg.memSize ∧ (s.sp - 2).toNat < s.cfg.memSize ∧ t = pushed s v := by
  simp only [push16, andThen_next, write8_next]
  constructor
  · rintro ⟨_, ⟨h1, rfl⟩, _, ⟨h2, rfl⟩, h3⟩; cases h3; exact ⟨h1, h2, rfl⟩
  · rintro ⟨h1, h2, rfl⟩; exact ⟨_, ⟨h1, rfl⟩, _, ⟨h2, rfl⟩, rfl⟩

theorem pop16_next {s : State} {r : Word × State} :
    pop16 s = .next r ↔ s.sp.toNat < s.cfg.memSize ∧ (s.sp + 1).toNat < s.cfg.memSize ∧
      r = (joinBytes (s.mem.read (s.sp + 1).toNat) (s.mem.read s.sp.toNat), s.setSp (s.sp + 2)) := by
  simp only [pop16, andThen_next, read16_next]
  constructor
  · rintro ⟨_, ⟨h1, h2, rfl⟩, h3⟩; cases h3; exact ⟨h1, h2, rfl⟩
  · rintro ⟨h1, h2, rfl⟩; exact ⟨_, ⟨h1, h2, rfl⟩, rfl⟩

theorem returnFromCall_next {s t : State} :
    returnFromCall s = .next t ↔ s.sp.toNat < s.cfg.memSize ∧ (s.sp + 1).toNat < s.cfg.memSize ∧
      t = (s.setSp (s.sp + 2)).setPc (joinBytes (s.mem.read (s.sp + 1).toNat) (s.mem.read s.sp.toNat)) := by
  simp only [returnFromCall, andThen_next, pop16_next]
  constructor
  · rintro ⟨_, ⟨h1, h2, rfl⟩, h3⟩; cases h3; exact ⟨h1, h2, rfl⟩
  · rintro ⟨h1, h2, rfl⟩; exact ⟨_, ⟨h1, h2, rfl⟩, rfl⟩

/-! ### What a store leaves alone -/

@[simp] theorem stored_mem (s : State) (a : Word) (v : Byte) : (stored s a v).mem = s.mem.write a.toNat v := rfl
@[simp] theorem stored_regs (s : State) (a : Word) (v : Byte) : (stored s a v).regs = s.regs := rfl
@[simp] theorem stored_flags (s : State) (a : Word) (v : Byte) : (stored s a v).flags = s.flags := rfl
@[simp] theorem stored_pc (s : State) (a : Word) (v : Byte) : (stored s a v).pc = s.pc := rfl
@[simp] theorem stored_sp (s : State) (a : Word) (v : Byte) : (stored s a v).sp = s.sp := rfl
@[simp] theorem stored_ie (s : State) (a : Word) (v : Byte) : (stored s a v).ie = s.ie := rfl
@[simp] theorem stored_halted (s : State) (a : Word) (v : Byte) : (stored s a v).halted = s.halted := rfl
@[simp] theorem stored_cyc (s : State) (a : Word) (v : Byte) : (stored s a v).cyc = s.cyc := rfl
@[simp] theorem stored_fc (s : State) (a : Word) (v : Byte) : (stored s a v).fc = s.fc := rfl
@[simp] theorem stored_nextVec (s : State) (a : Word) (v : Byte) : (stored s a v).nextVec = s.nextVec := rfl
@[simp] theorem stored_half (s : State) (a : Word) (v : Byte) : (stored s a v).half = s.half := rfl
@[simp] theorem stored_dev (s : State) (a : Word) (v : Byte) : (stored s a v).dev = s.dev := rfl
@[simp] theorem stored_cfg (s : State) (a : Word) (v : Byte) : (stored s a v).cfg = s.cfg := rfl
@[simp] theorem stored_inputs (s : State) (a : Word) (v : Byte) : (stored s a v).inputs = s.inputs := rfl
@[simp] theorem stored_draws (s : State) (a : Word) (v : Byte) : (stored s a v).draws = s.draws := rfl
@[simp] theorem stored_events (s : State) (a : Word) (v : Byte) : (stored s a v).events = s.events := rfl

/-! ### Interrupt delivery -/

/-- The state after an accepted interrupt (R225). -/
def interrupted (vec : Word) (s : State) : State :=
  ((pushed (s.setHalted false) s.pc).setPc vec).setIe (if s.cfg.intClearsIe then false else s.ie)

/-- Interrupt delivery answers a rejection exactly when `ie` is false, and else it pushes PC and jumps (R225, R226). -/
theorem interrupt_next {s : State} {vec : Word} {d : Delivery} :
    interrupt vec s = .next d ↔
      (s.ie = false ∧ d = .rejected) ∨
      (s.ie = true ∧ (s.sp - 1).toNat < s.cfg.memSize ∧ (s.sp - 2).toNat < s.cfg.memSize ∧
        d = .accepted (interrupted vec s)) := by
  unfold interrupt
  split
  · next h =>
    simp only [andThen_next, push16_next, h, Bool.true_eq_false, false_and, false_or, true_and]
    constructor
    · rintro ⟨_, ⟨h1, h2, rfl⟩, h3⟩; cases h3; exact ⟨h1, h2, by simp [interrupted, h]⟩
    · rintro ⟨h1, h2, rfl⟩; exact ⟨_, ⟨h1, h2, rfl⟩, by simp [interrupted, h]⟩
  · next h => simp [Bool.eq_false_iff.2 h, eq_comm]

/-! ### Ports -/

/-- A draw gives the first byte the host has ready, or else the free value (R245). -/
theorem draw_cases (s : State) (port : Byte) :
    (∃ v rest, s.inputs = v :: rest ∧ s.draw port = (v, { s with inputs := rest })) ∨
    (s.inputs = [] ∧ s.draw port = (Config.hostInput s.draws port, { s with draws := s.draws + 1 })) := by
  unfold State.draw
  cases h : s.inputs with
  | nil => right; simp
  | cons v rest => left; exact ⟨v, rest, rfl, rfl⟩

end Sys2Proof.Machine
end

