-- ==== Sys2Proof/Laws/Boot.lean ====
section
/-! SUPPORT. What the loader makes of an image (R262), and what the verdict on a run is (R264). -/

namespace Sys2Proof.Machine

/-- The memory after bytes were loaded at `a`: the bytes from there on, and elsewhere what stood there. -/
def overlaid (m : Memory) (a : Nat) (bs : List Byte) (x : Nat) : Byte :=
  if a ≤ x then (bs[x - a]?).getD (m.read x) else m.read x

/-- Loading bytes that fit in memory completes, changes nothing but memory, and places each byte at its address. -/
theorem loadBytes_next {bs : List Byte} {a : Word} {s : State} (hw : s.mem.wf = true)
    (hm : a.toNat + bs.length ≤ s.cfg.memSize) (ha : a.toNat + bs.length ≤ 65536) :
    ∃ m, loadBytes bs a s = .next { s with mem := m } ∧ m.wf = true ∧ ∀ x, m.read x = overlaid s.mem a.toNat bs x := by
  induction bs generalizing a s with
  | nil => exact ⟨s.mem, rfl, hw, fun x => by simp [overlaid]⟩
  | cons v vs ih =>
    simp only [List.length_cons] at hm ha
    cases vs with
    | nil =>
      refine ⟨s.mem.write a.toNat v, ?_, wf_write hw _ _, fun x => ?_⟩
      · simp [loadBytes, write8_of_lt v (show a.toNat < s.cfg.memSize by simp at hm; omega), stored]
      · rw [read_write hw, overlaid]
        rcases Nat.lt_trichotomy x a.toNat with h | h | h
        · rw [if_neg (by omega), if_neg (by omega)]
        · simp [h]
        · rw [if_neg (by omega), if_pos (by omega), List.getElem?_eq_none (by simp; omega)]; rfl
    | cons v' vs =>
      have hn : (a + 1).toNat = a.toNat + 1 := by
        simp only [List.length_cons] at ha
        rw [BitVec.toNat_add]; simp; omega
      obtain ⟨m, hl, hmw, hr⟩ := ih (a := a + 1) (s := stored s a v) (wf_write hw _ _) (by rw [hn]; show _ ≤ s.cfg.memSize; omega)
        (by rw [hn]; omega)
      refine ⟨m, ?_, hmw, fun x => ?_⟩
      · rw [loadBytes, write8_of_lt v (by omega)]; simpa [stored] using hl
      · rw [hr, hn, overlaid, overlaid, stored_mem, read_write hw]
        rcases Nat.lt_trichotomy x a.toNat with h | h | h
        · rw [if_neg (by omega), if_neg (by omega), if_neg (by omega)]
        · simp [h]
        · rw [if_pos (by omega), if_neg (by omega), if_pos (by omega), show x - a.toNat = (x - (a.toNat + 1)) + 1 by omega]
          rfl

/-- A part loads exactly when it was read and is no longer than its room; then its bytes are loaded at its offset. -/
theorem loadPart_next {part : RomPart} {s t : State} :
    loadPart part s = .next t ↔
      ∃ bs, part.contents = .bytes bs ∧ bs.length ≤ part.room ∧ loadBytes bs part.offset s = .next t := by
  unfold loadPart
  cases part.contents with
  | failed cause => simp
  | bytes bs =>
    by_cases h : bs.length ≤ part.room <;> simp [h]

/-- A run starts only if every part of its image was read and fits its room (R224, R262). -/
theorem loadParts_all_fit {parts : List RomPart} {s t : State} (h : loadParts parts s = .next t) :
    ∀ part ∈ parts, ∃ bs, part.contents = .bytes bs ∧ bs.length ≤ part.room := by
  induction parts generalizing s with
  | nil => simp
  | cons part parts ih =>
    obtain ⟨u, hu, ht⟩ := andThen_next.1 h
    obtain ⟨bs, hb, hl, -⟩ := loadPart_next.1 hu
    rintro p (_ | ⟨_, hp⟩)
    exacts [⟨bs, hb, hl⟩, ih ht p hp]

/-- Four parts that fit start the arcade run: the state of R260 with the image in memory, byte by byte, and 0x00
elsewhere (R261, R262). -/
theorem startArcade_next {image : ArcadeImage} {b0 b1 b2 b3 : List Byte} (h0 : image.part0.contents = .bytes b0)
    (h1 : image.part1.contents = .bytes b1) (h2 : image.part2.contents = .bytes b2)
    (h3 : image.part3.contents = .bytes b3) (l0 : b0.length ≤ 0x800) (l1 : b1.length ≤ 0x800)
    (l2 : b2.length ≤ 0x800) (l3 : b3.length ≤ 0x800) :
    ∃ m, startArcade image = .next { State.reset with mem := m } ∧ m.wf = true ∧
      ∀ x, m.read x = ((([b0, b1, b2, b3][x / 0x800]?).getD [])[x % 0x800]?).getD 0 := by
  have step {part : RomPart} {bs : List Byte} {m : Memory} (hc : part.contents = .bytes bs)
      (hr : bs.length ≤ part.room) (hf : part.offset.toNat + bs.length ≤ 65536) (hw : m.wf = true) :
      ∃ n, loadPart part { State.reset with mem := m } = .next { State.reset with mem := n } ∧ n.wf = true ∧
        ∀ x, n.read x = overlaid m part.offset.toNat bs x := by
    obtain ⟨n, hn, hnw, hnr⟩ := loadBytes_next (s := { State.reset with mem := m }) hw hf hf
    exact ⟨n, loadPart_next.2 ⟨bs, hc, hr, hn⟩, hnw, hnr⟩
  obtain ⟨m0, e0, w0, r0⟩ := step (part := image.part0.placed 0x0000#16) (m := []) h0 l0
    (by simp [RomFile.placed]; omega) rfl
  obtain ⟨m1, e1, w1, r1⟩ := step (part := image.part1.placed 0x0800#16) h1 l1 (by simp [RomFile.placed]; omega) w0
  obtain ⟨m2, e2, w2, r2⟩ := step (part := image.part2.placed 0x1000#16) h2 l2 (by simp [RomFile.placed]; omega) w1
  obtain ⟨m3, e3, w3, r3⟩ := step (part := image.part3.placed 0x1800#16) h3 l3 (by simp [RomFile.placed]; omega) w2
  refine ⟨m3, ?_, w3, fun x => ?_⟩
  · show andThen (loadPart _ { State.reset with mem := [] }) _ = _
    simp [e0, e1, e2, e3, loadParts]
  · have past {b : List Byte} {k : Nat} (h : b.length ≤ k) : b[k]? = none := List.getElem?_eq_none h
    simp only [r3, r2, r1, r0, overlaid, RomFile.placed, show (0x0000#16).toNat = 0 from rfl,
      show (0x0800#16).toNat = 0x800 from rfl, show (0x1000#16).toNat = 0x1000 from rfl,
      show (0x1800#16).toNat = 0x1800 from rfl, Nat.zero_le, if_true, Nat.sub_zero, Memory.read, Memory.unlisted]
    have hx : x < 0x800 ∨ (0x800 ≤ x ∧ x < 0x1000) ∨ (0x1000 ≤ x ∧ x < 0x1800) ∨ (0x1800 ≤ x ∧ x < 0x2000) ∨
        0x2000 ≤ x := by omega
    rcases hx with h | h | h | h | h
    · rw [if_neg (by omega), if_neg (by omega), if_neg (by omega), show x / 0x800 = 0 by omega,
        show x % 0x800 = x by omega]; rfl
    · rw [if_neg (by omega), if_neg (by omega), if_pos h.1, past (show b0.length ≤ x by omega),
        show x / 0x800 = 1 by omega, show x % 0x800 = x - 0x800 by omega]; rfl
    · rw [if_neg (by omega), if_pos h.1, if_pos (by omega), past (show b0.length ≤ x by omega),
        past (show b1.length ≤ x - 0x800 by omega), show x / 0x800 = 2 by omega, show x % 0x800 = x - 0x1000 by omega]
      rfl
    · rw [if_pos h.1, if_pos (by omega), if_pos (by omega), past (show b0.length ≤ x by omega),
        past (show b1.length ≤ x - 0x800 by omega), past (show b2.length ≤ x - 0x1000 by omega),
        show x / 0x800 = 3 by omega, show x % 0x800 = x - 0x1800 by omega]; rfl
    · rw [if_pos (by omega), if_pos (by omega), if_pos (by omega), past (show b0.length ≤ x by omega),
        past (show b1.length ≤ x - 0x800 by omega), past (show b2.length ≤ x - 0x1000 by omega),
        past (show b3.length ≤ x - 0x1800 by omega),
        List.getElem?_eq_none (show [b0, b1, b2, b3].length ≤ x / 0x800 by simp; omega)]; rfl

/-! ### The verdict -/

/-- The verdict after one more move. -/
theorem runVerdict_succ_of_next {s t : State} (h : machineStep s = .next t) (n : Nat) :
    runVerdict (n + 1) s = runVerdict n t := by
  simp [runVerdict, h]

/-- A run ends normally after at most `n + 1` moves when it does so from the next state, or ends here. -/
theorem runVerdict_succ_ended {s : State} {n : Nat} {text : List Byte} :
    runVerdict (n + 1) s = .ended text ↔
      (∃ t, machineStep s = .next t ∧ runVerdict n t = .ended text) ∨
      (machineStep s = .fault .harnessEnd ∧ s.printed = text) := by
  rw [runVerdict]
  cases machineStep s with
  | next t => simp
  | fault f => by_cases hf : f = .harnessEnd <;> simp [hf]
  | refused r => simp

@[simp] theorem printed_emit (s : State) (cs : List Byte) :
    (s.emit (cs.map .print)).printed = s.printed ++ cs := by
  simp [State.printed, State.emit, List.filterMap_map, Function.comp_def, HostEvent.printed]

end Sys2Proof.Machine
end

