-- ==== Sys2Proof/Laws/Decode.lean ====
section
/-! SUPPORT. The small laws of the encoding helpers: byte order, and each operand code read back. -/

namespace Sys2Proof

theorem joinBytes_toNat (hi lo : Byte) : (joinBytes hi lo).toNat = 256 * hi.toNat + lo.toNat := by
  unfold joinBytes
  have h := hi.isLt
  have l := lo.isLt
  rw [BitVec.toNat_or, BitVec.toNat_shiftLeft, BitVec.toNat_setWidth, BitVec.toNat_setWidth, Nat.shiftLeft_eq,
    show hi.toNat % 2 ^ 16 * 2 ^ 8 % 2 ^ 16 = 2 ^ 8 * hi.toNat by omega, Nat.mod_eq_of_lt (by omega),
    ← Nat.two_pow_add_eq_or_of_lt (by omega)]

theorem loByte_toNat (v : Word) : (loByte v).toNat = v.toNat % 256 := by simp [loByte]

theorem hiByte_toNat (v : Word) : (hiByte v).toNat = v.toNat / 256 := by
  have := v.isLt
  simp [hiByte, Nat.shiftRight_eq_div_pow]; omega

@[simp] theorem loByte_joinBytes (hi lo : Byte) : loByte (joinBytes hi lo) = lo := by
  have := lo.isLt
  apply BitVec.eq_of_toNat_eq; rw [loByte_toNat, joinBytes_toNat]; omega

@[simp] theorem hiByte_joinBytes (hi lo : Byte) : hiByte (joinBytes hi lo) = hi := by
  have := lo.isLt
  apply BitVec.eq_of_toNat_eq; rw [hiByte_toNat, joinBytes_toNat]; omega

@[simp] theorem joinBytes_bytes (v : Word) : joinBytes (hiByte v) (loByte v) = v := by
  apply BitVec.eq_of_toNat_eq; rw [joinBytes_toNat, hiByte_toNat, loByte_toNat]; omega

@[simp] theorem regOfCode_code (r : Reg) : regOfCode r.code.toNat = some r := by cases r <;> rfl

@[simp] theorem regPairOfCode_code (rp : RegPair) : regPairOfCode rp.code.toNat = rp := by cases rp <;> rfl

@[simp] theorem pairOfCode_code (rp : Pair) : pairOfCode rp.code.toNat = some rp := by cases rp <;> rfl

@[simp] theorem condOfCode_code (cc : Cond) : condOfCode cc.code.toNat = cc := by cases cc <;> rfl

end Sys2Proof
end

