-- ==== Sys2Proof/Laws/PerInstr.lean ====
section
/-! SUPPORT. Laws stated per instruction. The family EncodedLength: an instruction is encoded in as many bytes as the
decoder's table gives its opcode (30_encoding.md R73: "every opcode has exactly one, statically-known instruction
length"). -/

namespace Sys2Proof.Laws.EncodedLength

/-- The length the opcode alone gives (R71), 0 where it has no instruction. -/
def formLength : Form → Nat
  | .one _ => 1
  | .two _ => 2
  | .three _ => 3
  | .unsupported => 0

/-- A well-formed instruction is as long as its opcode says. -/
def Statement (i : Instr) : Prop := i.wellFormed = true → i.length = formLength (opcodeForm i.opcode)

theorem nop : Statement .nop := fun _ => rfl
theorem lxi (rp : RegPair) (d16 : Word) : Statement (.lxi rp d16) := by intro _; cases rp <;> (simp only [Instr.opcode]; rfl)
theorem stax (p : PtrPair) : Statement (.stax p) := by cases p <;> exact fun _ => rfl
theorem inx (rp : RegPair) : Statement (.inx rp) := by cases rp <;> exact fun _ => rfl
theorem inrR (r : Reg) : Statement (.inrR r) := by cases r <;> exact fun _ => rfl
theorem dcrR (r : Reg) : Statement (.dcrR r) := by cases r <;> exact fun _ => rfl
theorem mviR (r : Reg) (d8 : Byte) : Statement (.mviR r d8) := by intro _; cases r <;> (simp only [Instr.opcode]; rfl)
theorem rlc : Statement .rlc := fun _ => rfl
theorem dad (rp : RegPair) : Statement (.dad rp) := by cases rp <;> exact fun _ => rfl
theorem ldax (p : PtrPair) : Statement (.ldax p) := by cases p <;> exact fun _ => rfl
theorem dcx (rp : RegPair) : Statement (.dcx rp) := by cases rp <;> exact fun _ => rfl
theorem rrc : Statement .rrc := fun _ => rfl
theorem ral : Statement .ral := fun _ => rfl
theorem rar : Statement .rar := fun _ => rfl
theorem shld (a16 : Word) : Statement (.shld a16) := by intro _; (simp only [Instr.opcode]; rfl)
theorem daa : Statement .daa := fun _ => rfl
theorem lhld (a16 : Word) : Statement (.lhld a16) := by intro _; (simp only [Instr.opcode]; rfl)
theorem cma : Statement .cma := fun _ => rfl
theorem sta (a16 : Word) : Statement (.sta a16) := by intro _; (simp only [Instr.opcode]; rfl)
theorem inrM : Statement .inrM := fun _ => rfl
theorem dcrM : Statement .dcrM := fun _ => rfl
theorem mviM (d8 : Byte) : Statement (.mviM d8) := by intro _; (simp only [Instr.opcode]; rfl)
theorem stc : Statement .stc := fun _ => rfl
theorem lda (a16 : Word) : Statement (.lda a16) := by intro _; (simp only [Instr.opcode]; rfl)
theorem cmc : Statement .cmc := fun _ => rfl
theorem movRR (r1 r2 : Reg) : Statement (.movRR r1 r2) := by cases r1 <;> cases r2 <;> exact fun _ => rfl
theorem movRM (r : Reg) : Statement (.movRM r) := by cases r <;> exact fun _ => rfl
theorem movMR (r : Reg) : Statement (.movMR r) := by cases r <;> exact fun _ => rfl
theorem hlt : Statement .hlt := fun _ => rfl
theorem addR (r : Reg) : Statement (.addR r) := by cases r <;> exact fun _ => rfl
theorem addM : Statement .addM := fun _ => rfl
theorem adcR (r : Reg) : Statement (.adcR r) := by cases r <;> exact fun _ => rfl
theorem adcM : Statement .adcM := fun _ => rfl
theorem subR (r : Reg) : Statement (.subR r) := by cases r <;> exact fun _ => rfl
theorem subM : Statement .subM := fun _ => rfl
theorem sbbR (r : Reg) : Statement (.sbbR r) := by cases r <;> exact fun _ => rfl
theorem sbbM : Statement .sbbM := fun _ => rfl
theorem anaR (r : Reg) : Statement (.anaR r) := by cases r <;> exact fun _ => rfl
theorem anaM : Statement .anaM := fun _ => rfl
theorem xraR (r : Reg) : Statement (.xraR r) := by cases r <;> exact fun _ => rfl
theorem xraM : Statement .xraM := fun _ => rfl
theorem oraR (r : Reg) : Statement (.oraR r) := by cases r <;> exact fun _ => rfl
theorem oraM : Statement .oraM := fun _ => rfl
theorem cmpR (r : Reg) : Statement (.cmpR r) := by cases r <;> exact fun _ => rfl
theorem cmpM : Statement .cmpM := fun _ => rfl
theorem rcc (cc : Cond) : Statement (.rcc cc) := by cases cc <;> exact fun _ => rfl
theorem popRp (rp : Pair) : Statement (.popRp rp) := by cases rp <;> exact fun _ => rfl
theorem jcc (cc : Cond) (a16 : Word) : Statement (.jcc cc a16) := by intro _; cases cc <;> (simp only [Instr.opcode]; rfl)
theorem jmp (a16 : Word) : Statement (.jmp a16) := by intro _; (simp only [Instr.opcode]; rfl)
theorem ccc (cc : Cond) (a16 : Word) : Statement (.ccc cc a16) := by intro _; cases cc <;> (simp only [Instr.opcode]; rfl)
theorem pushRp (rp : Pair) : Statement (.pushRp rp) := by cases rp <;> exact fun _ => rfl
theorem adi (d8 : Byte) : Statement (.adi d8) := by intro _; (simp only [Instr.opcode]; rfl)
theorem rst (n : Nat) : Statement (.rst n) := by
  intro h
  have h : n < 8 := by simpa [Instr.wellFormed] using h
  interval_cases n <;> rfl
theorem ret : Statement .ret := fun _ => rfl
theorem call (a16 : Word) : Statement (.call a16) := by intro _; (simp only [Instr.opcode]; rfl)
theorem aci (d8 : Byte) : Statement (.aci d8) := by intro _; (simp only [Instr.opcode]; rfl)
theorem outP (p8 : Byte) : Statement (.outP p8) := by intro _; (simp only [Instr.opcode]; rfl)
theorem sui (d8 : Byte) : Statement (.sui d8) := by intro _; (simp only [Instr.opcode]; rfl)
theorem inP (p8 : Byte) : Statement (.inP p8) := by intro _; (simp only [Instr.opcode]; rfl)
theorem sbi (d8 : Byte) : Statement (.sbi d8) := by intro _; (simp only [Instr.opcode]; rfl)
theorem xthl : Statement .xthl := fun _ => rfl
theorem ani (d8 : Byte) : Statement (.ani d8) := by intro _; (simp only [Instr.opcode]; rfl)
theorem pchl : Statement .pchl := fun _ => rfl
theorem xchg : Statement .xchg := fun _ => rfl
theorem xri (d8 : Byte) : Statement (.xri d8) := by intro _; (simp only [Instr.opcode]; rfl)
theorem popPsw : Statement .popPsw := fun _ => rfl
theorem di : Statement .di := fun _ => rfl
theorem pushPsw : Statement .pushPsw := fun _ => rfl
theorem ori (d8 : Byte) : Statement (.ori d8) := by intro _; (simp only [Instr.opcode]; rfl)
theorem sphl : Statement .sphl := fun _ => rfl
theorem ei : Statement .ei := fun _ => rfl
theorem cpi (d8 : Byte) : Statement (.cpi d8) := by intro _; (simp only [Instr.opcode]; rfl)

end Sys2Proof.Laws.EncodedLength
end

