-- ==== Sys2Proof/Laws/Step.lean ====
section
/-! SUPPORT. What one move of the machine can do, said once: every invariant is derived from these lemmas. -/

namespace Sys2Proof.Machine

/-- A completed Step: the CPU ran, an instruction was fetched and executed, and its cost was charged (R90). -/
theorem cpuStep_ok {s t : State} {c : Nat} (h : cpuStep s = .ok c t) :
    s.halted = false ∧ ∃ i u, fetch s = .next i ∧ exec i s = .next u ∧
      c = cycleCost s.cfg i s.flags ∧ t = u.charge c := by
  unfold cpuStep at h
  split at h
  · cases h
  · next hh =>
    refine ⟨by simpa using hh, ?_⟩
    cases hf : fetch s with
    | fault f => simp [hf] at h
    | refused r => simp [hf] at h
    | next i =>
      cases he : exec i s with
      | fault f => simp [hf, he] at h
      | refused r => simp [hf, he] at h
      | next u => simp [hf, he] at h; exact ⟨i, u, rfl, he, h.1.symm, by rw [← h.2, ← h.1]⟩

/-- A Step does not run exactly when the CPU is halted (R92). -/
theorem cpuStep_notRunning {s : State} : cpuStep s = .notRunning ↔ s.halted = true := by
  unfold cpuStep
  split
  · next h => simp [h]
  · next h =>
    simp only [h]
    split <;> (try split) <;> simp

/-- The four moves of the synchronizer that go on: a Step, an idle to the target, and a delivery, rejected or
accepted (R230 to R234). -/
inductive SyncMove (s t : State) : Prop where
  | ran (i : Instr) (u : State) (hfc : s.fc < burstTarget s) (hrun : s.halted = false) (hfetch : fetch s = .next i)
      (hexec : exec i s = .next u)
      (ht : t = (u.charge (cycleCost s.cfg i s.flags)).setFc (u.fc + cycleCost s.cfg i s.flags))
  | idled (hfc : s.fc < burstTarget s) (hhalt : s.halted = true) (ht : t = s.setFc (burstTarget s))
  | rejected (hfc : burstTarget s ≤ s.fc) (hie : s.ie = false) (ht : t = endDelivery s)
  | accepted (hfc : burstTarget s ≤ s.fc) (hie : s.ie = true) (h1 : (s.sp - 1).toNat < s.cfg.memSize)
      (h2 : (s.sp - 2).toNat < s.cfg.memSize)
      (ht : t = endDelivery ((interrupted (vectorAddress s) s).setFc (s.fc + s.cfg.intCycles)))

theorem synchronizerStep_next {s t : State} (h : synchronizerStep s = .next t) : SyncMove s t := by
  unfold synchronizerStep at h
  split at h
  · next hfc =>
    cases hc : cpuStep s with
    | ok c u =>
      obtain ⟨hrun, i, v, hf, he, rfl, rfl⟩ := cpuStep_ok hc
      simp [hc] at h
      exact .ran i v hfc hrun hf he h.symm
    | notRunning => simp [hc] at h; exact .idled hfc (cpuStep_notRunning.1 hc) h.symm
    | fault f => simp [hc] at h
    | refused r => simp [hc] at h
  · next hfc =>
    obtain ⟨d, hd, ht⟩ := andThen_next.1 h
    rcases interrupt_next.1 hd with ⟨hie, rfl⟩ | ⟨hie, h1, h2, rfl⟩
    · cases ht; exact .rejected (by omega) hie rfl
    · cases ht; exact .accepted (by omega) hie h1 h2 rfl

/-- The three moves of the harness that go on: an intercepted call, a Step, and the Step of a halted CPU (R264). -/
inductive HarnessMove (s t : State) : Prop where
  | intercepted (cs : List Byte) (u : State) (hpc : s.pc = bdosEntry) (hprint : harnessPrint s = .next cs)
      (hret : returnFromCall s = .next u) (ht : t = u.emit (cs.map .print))
  | ran (i : Instr) (u : State) (h5 : s.pc ≠ bdosEntry) (h0 : s.pc ≠ 0) (hrun : s.halted = false)
      (hfetch : fetch s = .next i) (hexec : exec i s = .next u) (ht : t = u.charge (cycleCost s.cfg i s.flags))
  | stood (h5 : s.pc ≠ bdosEntry) (h0 : s.pc ≠ 0) (hhalt : s.halted = true) (ht : t = s)

theorem harnessStep_next {s t : State} (h : harnessStep s = .next t) : HarnessMove s t := by
  unfold harnessStep at h
  split at h
  · next hpc =>
    obtain ⟨cs, hcs, h⟩ := andThen_next.1 h
    obtain ⟨u, hu, h⟩ := andThen_next.1 h
    cases h; exact .intercepted cs u hpc hcs hu rfl
  · next h5 =>
    split at h
    · cases h
    · next h0 =>
      cases hc : cpuStep s with
      | ok c u =>
        obtain ⟨hrun, i, v, hf, he, rfl, rfl⟩ := cpuStep_ok hc
        simp [hc] at h
        exact .ran i v h5 h0 hrun hf he h.symm
      | notRunning => simp [hc] at h; exact .stood h5 h0 (cpuStep_notRunning.1 hc) h.symm
      | fault f => simp [hc] at h
      | refused r => simp [hc] at h

/-- One move of the machine is one of these. -/
theorem step_next {s t : State} (h : step s = .next t) :
    (s.cfg.runner = .synchronizer ∧ SyncMove s t) ∨ (s.cfg.runner = .harness ∧ HarnessMove s t) := by
  unfold step machineStep at h
  cases hr : s.cfg.runner with
  | synchronizer => simp only [hr] at h; exact .inl ⟨rfl, synchronizerStep_next h⟩
  | harness => simp only [hr] at h; exact .inr ⟨rfl, harnessStep_next h⟩

/-- What holds of a state and is kept by every move holds of every state a run reaches. -/
theorem reaches_induction {P : State → Prop} {s : State} (h0 : P s)
    (hstep : ∀ t u, P t → step t = .next u → P u) {t : State} (h : Reaches s t) : P t := by
  induction h with
  | refl => exact h0
  | step _ hs ih => exact hstep _ _ ih hs

end Sys2Proof.Machine
end

