-- ==== Sys2Proof/Tests/Slice0.lean ====
section
/-! SUPPORT. The tests of the model: well-formedness, decoding, one Step of every instruction, interrupts, the synchronizer,
the port devices, the harness and the loader. Expected values are those of spec/95_test_vectors.md, or worked by hand
from the named rule. Then one witness for each obligation with hypotheses. -/

namespace Sys2Proof.Tests

open Sys2Proof Sys2Proof.Machine Sys2Proof.Spec

/-! ### Helpers -/

/-- The operation answers a next state that passes the check. -/
def ran (s : Res State) (check : State → Bool) : Bool :=
  match s with
  | .next t => check t
  | .fault _ => false
  | .refused _ => false

/-- The fault an operation answers. -/
def faultOf {α : Type} (r : Res α) : Option Fault :=
  match r with
  | .next _ => none
  | .fault f => some f
  | .refused _ => none

/-- The refusal an operation answers. -/
def refusalOf {α : Type} (r : Res α) : Option Refusal :=
  match r with
  | .next _ => none
  | .fault _ => none
  | .refused x => some x

/-- Flags from the five bits S, Z, AC, P, CY. -/
def bits (n : Nat) : Flags := ⟨n.testBit 4, n.testBit 3, n.testBit 2, n.testBit 1, n.testBit 0⟩

/-- The start state of section 0 of the vectors: reset, with PC at 0x0100. -/
def base : State := State.reset.setPc 0x0100

/-- The same with 16384 bytes of memory. -/
def small : State := { base with cfg := { Config.arcade with memSize := 16384 } }

/-- The start state of the conformance run (R264). -/
def harness : State := State.resetWith Config.conformance

/-- One byte of memory set up. -/
def poke (a : Word) (v : Byte) (s : State) : State := { s with mem := s.mem.write a.toNat v }

/-- A host behind the ports that has bytes ready. -/
def external (vs : List Byte) (s : State) : State :=
  { s with cfg := { s.cfg with ports := .external }, inputs := vs }

/-- Both auxiliary-carry parameters at `intel`. -/
def intelAc (s : State) : State := { s with cfg := { s.cfg with acSubMode := .intel, acAnaMode := .intel } }

/-- The state with PC at an address and code bytes there. -/
def coded (a : Word) (bs : List Byte) (s : State) : State := (s.setPc a).placeBytes bs a

/-- One step of that state. -/
def code (a : Word) (bs : List Byte) (s : State) : Res State := step (coded a bs s)

/-! ### Well-formedness -/

theorem test_rst8_is_ill_formed : (Instr.rst 8).wellFormed = false := by decide

theorem test_rst7_is_well_formed : (Instr.rst 7).wellFormed = true := by decide

/-! ### Decoding: words written out from the bit patterns of section 2 of 95_test_vectors.md and of 30_encoding.md R81 -/

theorem test_decode_moves :
    decode [0b01000001] = .ok (.movRR .b .c) [] ∧ decode [0b01111110] = .ok (.movRM .a) [] ∧
    decode [0b01110111] = .ok (.movMR .a) [] ∧ decode [0b00110110, 5] = .ok (.mviM 5) [] ∧
    decode [0b00011110, 5] = .ok (.mviR .e 5) [] ∧ decode [0b00110001, 0x00, 0x24] = .ok (.lxi .sp 0x2400) [] ∧
    decode [0b00001010] = .ok (.ldax .bc) [] ∧ decode [0b00010010] = .ok (.stax .de) [] ∧
    decode [0x3A, 0x45, 0x23] = .ok (.lda 0x2345) [] ∧ decode [0x32, 0x45, 0x23] = .ok (.sta 0x2345) [] ∧
    decode [0x2A, 0x45, 0x23] = .ok (.lhld 0x2345) [] ∧ decode [0x22, 0x45, 0x23] = .ok (.shld 0x2345) [] ∧
    decode [0xEB] = .ok .xchg [] := by decide

theorem test_decode_arithmetic :
    decode [0b10000010] = .ok (.addR .d) [] ∧ decode [0b10000110] = .ok .addM [] ∧
    decode [0b11000110, 9] = .ok (.adi 9) [] ∧ decode [0b10001011] = .ok (.adcR .e) [] ∧
    decode [0b10001110] = .ok .adcM [] ∧ decode [0b11001110, 9] = .ok (.aci 9) [] ∧
    decode [0b10010100] = .ok (.subR .h) [] ∧ decode [0b10010110] = .ok .subM [] ∧
    decode [0b11010110, 9] = .ok (.sui 9) [] ∧ decode [0b10011101] = .ok (.sbbR .l) [] ∧
    decode [0b10011110] = .ok .sbbM [] ∧ decode [0b11011110, 9] = .ok (.sbi 9) [] ∧
    decode [0b10111111] = .ok (.cmpR .a) [] ∧ decode [0b10111110] = .ok .cmpM [] ∧
    decode [0b11111110, 9] = .ok (.cpi 9) [] := by decide

theorem test_decode_increments :
    decode [0b00101100] = .ok (.inrR .l) [] ∧ decode [0b00110100] = .ok .inrM [] ∧
    decode [0b00001101] = .ok (.dcrR .c) [] ∧ decode [0b00110101] = .ok .dcrM [] ∧
    decode [0b00110011] = .ok (.inx .sp) [] ∧ decode [0b00001011] = .ok (.dcx .bc) [] ∧
    decode [0b00111001] = .ok (.dad .sp) [] ∧ decode [0b00100111] = .ok .daa [] := by decide

theorem test_decode_logical :
    decode [0b10100000] = .ok (.anaR .b) [] ∧ decode [0b10100110] = .ok .anaM [] ∧
    decode [0b11100110, 9] = .ok (.ani 9) [] ∧ decode [0b10101111] = .ok (.xraR .a) [] ∧
    decode [0b10101110] = .ok .xraM [] ∧ decode [0b11101110, 9] = .ok (.xri 9) [] ∧
    decode [0b10110001] = .ok (.oraR .c) [] ∧ decode [0b10110110] = .ok .oraM [] ∧
    decode [0b11110110, 9] = .ok (.ori 9) [] ∧ decode [0x07] = .ok .rlc [] ∧ decode [0x0F] = .ok .rrc [] ∧
    decode [0x17] = .ok .ral [] ∧ decode [0x1F] = .ok .rar [] ∧ decode [0x2F] = .ok .cma [] ∧
    decode [0x37] = .ok .stc [] ∧ decode [0x3F] = .ok .cmc [] := by decide

theorem test_decode_branches :
    decode [0xC3, 0x34, 0x12] = .ok (.jmp 0x1234) [] ∧ decode [0b11101010, 0x34, 0x12] = .ok (.jcc .pe 0x1234) [] ∧
    decode [0xCD, 0x34, 0x12] = .ok (.call 0x1234) [] ∧ decode [0b11110100, 0x34, 0x12] = .ok (.ccc .p 0x1234) [] ∧
    decode [0xC9] = .ok .ret [] ∧ decode [0b11011000] = .ok (.rcc .c) [] ∧ decode [0b11011111] = .ok (.rst 3) [] ∧
    decode [0xE9] = .ok .pchl [] := by decide

theorem test_decode_stack_io_special :
    decode [0b11010101] = .ok (.pushRp .de) [] ∧ decode [0b11110101] = .ok .pushPsw [] ∧
    decode [0b11000001] = .ok (.popRp .bc) [] ∧ decode [0b11110001] = .ok .popPsw [] ∧ decode [0xE3] = .ok .xthl [] ∧
    decode [0xF9] = .ok .sphl [] ∧ decode [0xDB, 3] = .ok (.inP 3) [] ∧ decode [0xD3, 3] = .ok (.outP 3) [] ∧
    decode [0xFB] = .ok .ei [] ∧ decode [0xF3] = .ok .di [] ∧ decode [0x76] = .ok .hlt [] ∧
    decode [0x00] = .ok .nop [] := by decide

theorem test_decode_unsupported :
    ([0x08, 0x10, 0x18, 0x20, 0x28, 0x30, 0x38, 0xCB, 0xD9, 0xDD, 0xED, 0xFD].all fun op =>
      decide (decode [op] = .unsupported op)) = true := by decide

/-- An opcode-table word: LXI SP,0x2400 has its opcode in bits 7..0 and its operand above them. -/
theorem test_table_word :
    decodeTableWord 24 0x240031 = some (.lxi .sp 0x2400) ∧ decodeTableWord 8 0x31 = some (.lxi .sp 0) ∧
    decodeTableWord 8 0x08 = none := by decide

/-! ### One Step of every instruction, with the cycles it adds (R272) -/

/-! Section 4 of 95_test_vectors.md: data transfer. -/

theorem test_movRR :
    ran (code 0x0100 [0x41] (base.setReg .c 0x5A)) (fun t =>
      t.reg .b == 0x5A && t.flags == bits 0b00000 && t.pc == 0x0101 && t.cyc == 5) = true := by
  decide

theorem test_movRR_itself :
    ran (code 0x0100 [0x7F] (base.setFlags (bits 0b11111))) (fun t =>
      t.reg .a == 0 && t.flags == bits 0b11111 && t.pc == 0x0101 && t.cyc == 5) = true := by
  decide

theorem test_movMR :
    ran (code 0x0100 [0x77] ((base.setReg .a 0x77).setPair .hl 0x2000)) (fun t =>
      byteAt t 0x2000 == 0x77 && t.flags == bits 0b00000 && t.pc == 0x0101 && t.cyc == 7) = true := by
  decide

theorem test_movRM :
    ran (code 0x0100 [0x7E] (poke 0x2000 0x99 (base.setPair .hl 0x2000))) (fun t =>
      t.reg .a == 0x99 && t.flags == bits 0b00000 && t.pc == 0x0101 && t.cyc == 7) = true := by
  decide

theorem test_mviM :
    ran (code 0x0100 [0x36, 0xAB] (base.setPair .hl 0x2010)) (fun t =>
      byteAt t 0x2010 == 0xAB && t.flags == bits 0b00000 && t.pc == 0x0102 && t.cyc == 10) = true := by
  decide

theorem test_mviR_pc_wraps :
    ran (code 0xFFFE [0x3E, 0x42] base) (fun t =>
      t.reg .a == 0x42 && t.pc == 0x0000 && t.cyc == 7) = true := by
  decide

theorem test_lxi_sp :
    ran (code 0x0100 [0x31, 0x00, 0x24] base) (fun t =>
      t.sp == 0x2400 && t.flags == bits 0b00000 && t.pc == 0x0103 && t.cyc == 10) = true := by
  decide

theorem test_lxi_bc :
    ran (code 0x0100 [0x01, 0xEF, 0xBE] base) (fun t =>
      t.reg .b == 0xBE && t.reg .c == 0xEF && t.flags == bits 0b00000 && t.pc == 0x0103 && t.cyc == 10) = true := by
  decide

theorem test_lda :
    ran (code 0x0100 [0x3A, 0x45, 0x23] (poke 0x2345 0x3C base)) (fun t =>
      t.reg .a == 0x3C && t.flags == bits 0b00000 && t.pc == 0x0103 && t.cyc == 13) = true := by
  decide

theorem test_sta :
    ran (code 0x0100 [0x32, 0xFF, 0x20] (base.setReg .a 0xC3)) (fun t =>
      byteAt t 0x20FF == 0xC3 && t.flags == bits 0b00000 && t.pc == 0x0103 && t.cyc == 13) = true := by
  decide

theorem test_lhld :
    ran (code 0x0100 [0x2A, 0x00, 0x21] (poke 0x2101 0x12 (poke 0x2100 0x34 base))) (fun t =>
      t.reg .h == 0x12 && t.reg .l == 0x34 && t.flags == bits 0b00000 && t.pc == 0x0103 && t.cyc == 16) = true := by
  decide

theorem test_lhld_wraps :
    ran (code 0x0100 [0x2A, 0xFF, 0xFF] (poke 0x0000 0x22 (poke 0xFFFF 0x11 base))) (fun t =>
      t.reg .h == 0x22 && t.reg .l == 0x11 && t.flags == bits 0b00000 && t.pc == 0x0103 && t.cyc == 16) = true := by
  decide

theorem test_shld :
    ran (code 0x0100 [0x22, 0x00, 0x22] (base.setPair .hl 0xABCD)) (fun t =>
      byteAt t 0x2200 == 0xCD && byteAt t 0x2201 == 0xAB && t.flags == bits 0b00000 && t.pc == 0x0103 && t.cyc == 16) = true := by
  decide

theorem test_ldax :
    ran (code 0x0100 [0x0A] (poke 0x2050 0x5E (base.setPair .bc 0x2050))) (fun t =>
      t.reg .a == 0x5E && t.flags == bits 0b00000 && t.pc == 0x0101 && t.cyc == 7) = true := by
  decide

theorem test_stax :
    ran (code 0x0100 [0x12] ((base.setPair .de 0x2060).setReg .a 0x01)) (fun t =>
      byteAt t 0x2060 == 0x01 && t.flags == bits 0b00000 && t.pc == 0x0101 && t.cyc == 7) = true := by
  decide

theorem test_xchg :
    ran (code 0x0100 [0xEB] ((base.setPair .de 0x1234).setPair .hl 0xABCD)) (fun t =>
      t.pair .de == 0xABCD && t.pair .hl == 0x1234 && t.flags == bits 0b00000 && t.pc == 0x0101 && t.cyc == 4) = true := by
  decide

/-! Section 5: arithmetic. -/

theorem test_addR :
    ran (code 0x0100 [0x80] ((base.setReg .a 0x2E).setReg .b 0x6C)) (fun t =>
      t.reg .a == 0x9A && t.flags == bits 0b10110 && t.pc == 0x0101 && t.cyc == 4) = true := by
  decide

theorem test_addR_wraps :
    ran (code 0x0100 [0x80] ((base.setReg .a 0xFF).setReg .b 0x01)) (fun t =>
      t.reg .a == 0x00 && t.flags == bits 0b01111 && t.pc == 0x0101 && t.cyc == 4) = true := by
  decide

theorem test_addM :
    ran (code 0x0100 [0x86] (poke 0x2000 0x01 ((base.setReg .a 0x0F).setPair .hl 0x2000))) (fun t =>
      t.reg .a == 0x10 && t.flags == bits 0b00100 && t.pc == 0x0101 && t.cyc == 7) = true := by
  decide

theorem test_adi :
    ran (code 0x0100 [0xC6, 0x80] (base.setReg .a 0x7F)) (fun t =>
      t.reg .a == 0xFF && t.flags == bits 0b10010 && t.pc == 0x0102 && t.cyc == 7) = true := by
  decide

theorem test_adcR :
    ran (code 0x0100 [0x89] (((base.setReg .a 0x3D).setReg .c 0x42).setFlags (bits 0b00001))) (fun t =>
      t.reg .a == 0x80 && t.flags == bits 0b10100 && t.pc == 0x0101 && t.cyc == 4) = true := by
  decide

theorem test_adcR_carry_alone :
    ran (code 0x0100 [0x89] ((base.setReg .a 0xFF).setFlags (bits 0b00001))) (fun t =>
      t.reg .a == 0x00 && t.flags == bits 0b01111 && t.pc == 0x0101 && t.cyc == 4) = true := by
  decide

theorem test_aci :
    ran (code 0x0100 [0xCE, 0x0F] (base.setFlags (bits 0b00001))) (fun t =>
      t.reg .a == 0x10 && t.flags == bits 0b00100 && t.pc == 0x0102 && t.cyc == 7) = true := by
  decide

theorem test_subR_borrow :
    ran (code 0x0100 [0x90] (base.setReg .b 0x01)) (fun t =>
      t.reg .a == 0xFF && t.flags == bits 0b10111 && t.pc == 0x0101 && t.cyc == 4) = true := by
  decide

theorem test_subR_intel :
    ran (code 0x0100 [0x90] (intelAc (base.setReg .b 0x01))) (fun t =>
      t.reg .a == 0xFF && t.flags == bits 0b10011 && t.pc == 0x0101 && t.cyc == 4) = true := by
  decide

theorem test_sui :
    ran (code 0x0100 [0xD6, 0x01] (base.setReg .a 0x05)) (fun t =>
      t.reg .a == 0x04 && t.flags == bits 0b00000 && t.pc == 0x0102 && t.cyc == 7) = true := by
  decide

theorem test_sbbR :
    ran (code 0x0100 [0x9D] (((base.setReg .a 0x04).setReg .l 0x02).setFlags (bits 0b00001))) (fun t =>
      t.reg .a == 0x01 && t.flags == bits 0b00000 && t.pc == 0x0101 && t.cyc == 4) = true := by
  decide

theorem test_sbbR_borrow :
    ran (code 0x0100 [0x9D] ((base.setReg .l 0xFF).setFlags (bits 0b00001))) (fun t =>
      t.reg .a == 0x00 && t.flags == bits 0b01111 && t.pc == 0x0101 && t.cyc == 4) = true := by
  decide

theorem test_sbi :
    ran (code 0x0100 [0xDE, 0x00] (base.setFlags (bits 0b00001))) (fun t =>
      t.reg .a == 0xFF && t.flags == bits 0b10111 && t.pc == 0x0102 && t.cyc == 7) = true := by
  decide

theorem test_cmpR :
    ran (code 0x0100 [0xBB] ((base.setReg .a 0x02).setReg .e 0x05)) (fun t =>
      t.reg .a == 0x02 && t.flags == bits 0b10101 && t.pc == 0x0101 && t.cyc == 4) = true := by
  decide

theorem test_cpi_equal :
    ran (code 0x0100 [0xFE, 0x40] (base.setReg .a 0x40)) (fun t =>
      t.reg .a == 0x40 && t.flags == bits 0b01010 && t.pc == 0x0102 && t.cyc == 7) = true := by
  decide

theorem test_inrR_keeps_carry :
    ran (code 0x0100 [0x3C] ((base.setReg .a 0xFF).setFlags (bits 0b00001))) (fun t =>
      t.reg .a == 0x00 && t.flags == bits 0b01111 && t.pc == 0x0101 && t.cyc == 5) = true := by
  decide

theorem test_inrM :
    ran (code 0x0100 [0x34] (poke 0x2000 0x7F (base.setPair .hl 0x2000))) (fun t =>
      byteAt t 0x2000 == 0x80 && t.flags == bits 0b10100 && t.pc == 0x0101 && t.cyc == 10) = true := by
  decide

theorem test_dcrR :
    ran (code 0x0100 [0x0D] (base.setReg .c 0x10)) (fun t =>
      t.reg .c == 0x0F && t.flags == bits 0b00110 && t.pc == 0x0101 && t.cyc == 5) = true := by
  decide

theorem test_dcrR_intel :
    ran (code 0x0100 [0x0D] (intelAc (base.setReg .c 0x01))) (fun t =>
      t.reg .c == 0x00 && t.flags == bits 0b01110 && t.pc == 0x0101 && t.cyc == 5) = true := by
  decide

theorem test_inx :
    ran (code 0x0100 [0x23] (base.setPair .hl 0x00FF)) (fun t =>
      t.pair .hl == 0x0100 && t.flags == bits 0b00000 && t.pc == 0x0101 && t.cyc == 5) = true := by
  decide

theorem test_inx_sp_wraps :
    ran (code 0x0100 [0x33] (base.setSp 0xFFFF)) (fun t =>
      t.sp == 0x0000 && t.flags == bits 0b00000 && t.pc == 0x0101 && t.cyc == 5) = true := by
  decide

theorem test_dcx_wraps :
    ran (code 0x0100 [0x0B] base) (fun t =>
      t.pair .bc == 0xFFFF && t.flags == bits 0b00000 && t.pc == 0x0101 && t.cyc == 5) = true := by
  decide

theorem test_dad :
    ran (code 0x0100 [0x09] ((base.setPair .hl 0xA17B).setPair .bc 0x339F)) (fun t =>
      t.pair .hl == 0xD51A && t.flags == bits 0b00000 && t.pc == 0x0101 && t.cyc == 10) = true := by
  decide

theorem test_dad_hl_keeps_flags :
    ran (code 0x0100 [0x29] ((base.setPair .hl 0x8000).setFlags (bits 0b11000))) (fun t =>
      t.pair .hl == 0x0000 && t.flags == bits 0b11001 && t.pc == 0x0101 && t.cyc == 10) = true := by
  decide

theorem test_daa :
    ran (code 0x0100 [0x27] (base.setReg .a 0x9B)) (fun t =>
      t.reg .a == 0x01 && t.flags == bits 0b00101 && t.pc == 0x0101 && t.cyc == 4) = true := by
  decide

theorem test_daa_half_carry :
    ran (code 0x0100 [0x27] ((base.setReg .a 0x10).setFlags (bits 0b00100))) (fun t =>
      t.reg .a == 0x16 && t.flags == bits 0b00000 && t.pc == 0x0101 && t.cyc == 4) = true := by
  decide

/-! Section 5's rules worked by hand for the M forms it gives no row: SUB M and CMP M as SUB and CMP of the same byte
(R130, R136), SBB M as SBB (R133), ADC M as ADC (R127), DCR M as DCR (R141). -/

theorem test_adcM :
    ran (code 0x0100 [0x8E] ((poke 0x2000 0x42 ((base.setReg .a 0x3D).setPair .hl 0x2000)).setFlags (bits 0b00001))) (fun t =>
      t.reg .a == 0x80 && t.flags == bits 0b10100 && t.pc == 0x0101 && t.cyc == 7) = true := by
  decide

theorem test_subM :
    ran (code 0x0100 [0x96] (poke 0x2000 0x01 ((base.setReg .a 0x10).setPair .hl 0x2000))) (fun t =>
      t.reg .a == 0x0F && t.flags == bits 0b00110 && t.pc == 0x0101 && t.cyc == 7) = true := by
  decide

theorem test_sbbM :
    ran (code 0x0100 [0x9E] ((poke 0x2000 0x02 ((base.setReg .a 0x04).setPair .hl 0x2000)).setFlags (bits 0b00001))) (fun t =>
      t.reg .a == 0x01 && t.flags == bits 0b00000 && t.pc == 0x0101 && t.cyc == 7) = true := by
  decide

theorem test_cmpM :
    ran (code 0x0100 [0xBE] (poke 0x2000 0x05 ((base.setReg .a 0x02).setPair .hl 0x2000))) (fun t =>
      t.reg .a == 0x02 && t.flags == bits 0b10101 && t.pc == 0x0101 && t.cyc == 7) = true := by
  decide

theorem test_dcrM :
    ran (code 0x0100 [0x35] (poke 0x2000 0x10 (base.setPair .hl 0x2000))) (fun t =>
      byteAt t 0x2000 == 0x0F && t.flags == bits 0b00110 && t.pc == 0x0101 && t.cyc == 10) = true := by
  decide

/-! Section 6: logical operations, rotates, carry; the M and register forms without a row as their sisters (R162, R165, R167). -/

theorem test_anaR :
    ran (code 0x0100 [0xA1] (((base.setReg .a 0xFC).setReg .c 0x0F).setFlags (bits 0b00001))) (fun t =>
      t.reg .a == 0x0C && t.flags == bits 0b00010 && t.pc == 0x0101 && t.cyc == 4) = true := by
  decide

theorem test_anaR_intel :
    ran (code 0x0100 [0xA1] (intelAc ((base.setReg .a 0xFC).setReg .c 0x0F))) (fun t =>
      t.reg .a == 0x0C && t.flags == bits 0b00110 && t.pc == 0x0101 && t.cyc == 4) = true := by
  decide

theorem test_anaM :
    ran (code 0x0100 [0xA6] (poke 0x2000 0x0F ((base.setReg .a 0xFC).setPair .hl 0x2000))) (fun t =>
      t.reg .a == 0x0C && t.flags == bits 0b00010 && t.pc == 0x0101 && t.cyc == 7) = true := by
  decide

theorem test_ani :
    ran (code 0x0100 [0xE6, 0xF0] ((base.setReg .a 0x0F).setFlags (bits 0b00100))) (fun t =>
      t.reg .a == 0x00 && t.flags == bits 0b01010 && t.pc == 0x0102 && t.cyc == 7) = true := by
  decide

theorem test_xraR :
    ran (code 0x0100 [0xAF] ((base.setReg .a 0x5C).setFlags (bits 0b00001))) (fun t =>
      t.reg .a == 0x00 && t.flags == bits 0b01010 && t.pc == 0x0101 && t.cyc == 4) = true := by
  decide

theorem test_xraM :
    ran (code 0x0100 [0xAE] (poke 0x2000 0xFF ((base.setReg .a 0x0F).setPair .hl 0x2000))) (fun t =>
      t.reg .a == 0xF0 && t.flags == bits 0b10010 && t.pc == 0x0101 && t.cyc == 7) = true := by
  decide

theorem test_xri :
    ran (code 0x0100 [0xEE, 0xFF] (base.setReg .a 0x0F)) (fun t =>
      t.reg .a == 0xF0 && t.flags == bits 0b10010 && t.pc == 0x0102 && t.cyc == 7) = true := by
  decide

theorem test_oraR :
    ran (code 0x0100 [0xB0] ((base.setReg .a 0x33).setReg .b 0x0F)) (fun t =>
      t.reg .a == 0x3F && t.flags == bits 0b00010 && t.pc == 0x0101 && t.cyc == 4) = true := by
  decide

theorem test_oraM :
    ran (code 0x0100 [0xB6] (poke 0x2000 0x0F ((base.setReg .a 0x33).setPair .hl 0x2000))) (fun t =>
      t.reg .a == 0x3F && t.flags == bits 0b00010 && t.pc == 0x0101 && t.cyc == 7) = true := by
  decide

theorem test_ori :
    ran (code 0x0100 [0xF6, 0x00] (base.setFlags (bits 0b00101))) (fun t =>
      t.reg .a == 0x00 && t.flags == bits 0b01010 && t.pc == 0x0102 && t.cyc == 7) = true := by
  decide

theorem test_rlc_keeps_flags :
    ran (code 0x0100 [0x07] ((base.setReg .a 0x80).setFlags (bits 0b01000))) (fun t =>
      t.reg .a == 0x01 && t.flags == bits 0b01001 && t.pc == 0x0101 && t.cyc == 4) = true := by
  decide

theorem test_rrc :
    ran (code 0x0100 [0x0F] (base.setReg .a 0x01)) (fun t =>
      t.reg .a == 0x80 && t.flags == bits 0b00001 && t.pc == 0x0101 && t.cyc == 4) = true := by
  decide

theorem test_ral :
    ran (code 0x0100 [0x17] (base.setReg .a 0xB5)) (fun t =>
      t.reg .a == 0x6A && t.flags == bits 0b00001 && t.pc == 0x0101 && t.cyc == 4) = true := by
  decide

theorem test_rar :
    ran (code 0x0100 [0x1F] ((base.setReg .a 0x6A).setFlags (bits 0b00001))) (fun t =>
      t.reg .a == 0xB5 && t.flags == bits 0b00000 && t.pc == 0x0101 && t.cyc == 4) = true := by
  decide

theorem test_cma :
    ran (code 0x0100 [0x2F] ((base.setReg .a 0x51).setFlags (bits 0b10000))) (fun t =>
      t.reg .a == 0xAE && t.flags == bits 0b10000 && t.pc == 0x0101 && t.cyc == 4) = true := by
  decide

theorem test_stc :
    ran (code 0x0100 [0x37] base) (fun t =>
      t.reg .a == 0x00 && t.flags == bits 0b00001 && t.pc == 0x0101 && t.cyc == 4) = true := by
  decide

theorem test_cmc :
    ran (code 0x0100 [0x3F] (base.setFlags (bits 0b01001))) (fun t =>
      t.reg .a == 0x00 && t.flags == bits 0b01000 && t.pc == 0x0101 && t.cyc == 4) = true := by
  decide

/-! Section 7: branches. -/

theorem test_jmp :
    ran (code 0x0100 [0xC3, 0x00, 0x3C] base) (fun t =>
      t.pc == 0x3C00 && t.flags == bits 0b00000 && t.cyc == 10) = true := by
  decide

theorem test_jmp_operands_wrap :
    ran (code 0xFFFE [0xC3, 0x34] (poke 0x0000 0x12 base)) (fun t =>
      t.pc == 0x1234 && t.flags == bits 0b00000 && t.cyc == 10) = true := by
  decide

theorem test_jcc_taken :
    ran (code 0x0100 [0xCA, 0x00, 0x20] (base.setFlags (bits 0b01000))) (fun t =>
      t.pc == 0x2000 && t.flags == bits 0b01000 && t.cyc == 10) = true := by
  decide

theorem test_jcc_not_taken :
    ran (code 0x0100 [0xF2, 0x34, 0x12] (base.setFlags (bits 0b10000))) (fun t =>
      t.pc == 0x0103 && t.flags == bits 0b10000 && t.cyc == 10) = true := by
  decide

theorem test_call :
    ran (code 0x0100 [0xCD, 0x00, 0x30] (base.setSp 0x2400)) (fun t =>
      t.sp == 0x23FE && byteAt t 0x23FE == 0x03 && byteAt t 0x23FF == 0x01 && t.pc == 0x3000 && t.cyc == 17) = true := by
  decide

theorem test_call_stack_wraps :
    ran (code 0x0100 [0xCD, 0x00, 0x00] (base.setSp 0x0001)) (fun t =>
      t.sp == 0xFFFF && byteAt t 0x0000 == 0x01 && byteAt t 0xFFFF == 0x03 && t.pc == 0x0000 && t.cyc == 17) = true := by
  decide

theorem test_ccc_taken :
    ran (code 0x0100 [0xDC, 0x00, 0x30] ((base.setSp 0x2400).setFlags (bits 0b00001))) (fun t =>
      t.sp == 0x23FE && byteAt t 0x23FE == 0x03 && byteAt t 0x23FF == 0x01 && t.pc == 0x3000 && t.cyc == 17) = true := by
  decide

theorem test_ccc_not_taken :
    ran (code 0x0100 [0xC4, 0x00, 0x30] ((base.setSp 0x2400).setFlags (bits 0b01000))) (fun t =>
      t.sp == 0x2400 && t.pc == 0x0103 && t.cyc == 11) = true := by
  decide

theorem test_ret :
    ran (code 0x0100 [0xC9] (poke 0x23FF 0x10 (poke 0x23FE 0x03 (base.setSp 0x23FE)))) (fun t =>
      t.sp == 0x2400 && t.pc == 0x1003 && t.cyc == 10) = true := by
  decide

theorem test_rcc_taken :
    ran (code 0x0100 [0xC0] (poke 0x23FF 0x10 (poke 0x23FE 0x03 (base.setSp 0x23FE)))) (fun t =>
      t.sp == 0x2400 && t.pc == 0x1003 && t.cyc == 11) = true := by
  decide

theorem test_rcc_not_taken :
    ran (code 0x0100 [0xC8] (base.setSp 0x23FE)) (fun t =>
      t.sp == 0x23FE && t.pc == 0x0101 && t.cyc == 5) = true := by
  decide

theorem test_rst7 :
    ran (code 0x0100 [0xFF] (base.setSp 0x2400)) (fun t =>
      t.sp == 0x23FE && byteAt t 0x23FE == 0x01 && byteAt t 0x23FF == 0x01 && t.pc == 0x0038 && t.cyc == 11) = true := by
  decide

theorem test_pchl :
    ran (code 0x0100 [0xE9] (base.setPair .hl 0x413E)) (fun t =>
      t.sp == 0x0000 && t.pc == 0x413E && t.cyc == 5) = true := by
  decide

/-! Section 8: the stack. -/

theorem test_pushRp :
    ran (code 0x0100 [0xD5] ((base.setPair .de 0x8F9D).setSp 0x3A2C)) (fun t =>
      t.sp == 0x3A2A && byteAt t 0x3A2A == 0x9D && byteAt t 0x3A2B == 0x8F && t.flags == bits 0b00000 && t.pc == 0x0101 && t.cyc == 11) = true := by
  decide

theorem test_pushRp_wraps :
    ran (code 0x0100 [0xE5] (base.setPair .hl 0xAABB)) (fun t =>
      t.sp == 0xFFFE && byteAt t 0xFFFE == 0xBB && byteAt t 0xFFFF == 0xAA && t.flags == bits 0b00000 && t.pc == 0x0101 && t.cyc == 11) = true := by
  decide

theorem test_pushPsw :
    ran (code 0x0100 [0xF5] (((base.setReg .a 0x1F).setFlags (bits 0b01001)).setSp 0x2400)) (fun t =>
      t.sp == 0x23FE && byteAt t 0x23FE == 0x43 && byteAt t 0x23FF == 0x1F && t.flags == bits 0b01001 && t.pc == 0x0101 && t.cyc == 11) = true := by
  decide

theorem test_popRp :
    ran (code 0x0100 [0xE1] (poke 0x123A 0x93 (poke 0x1239 0x3D (base.setSp 0x1239)))) (fun t =>
      t.pair .hl == 0x933D && t.sp == 0x123B && t.flags == bits 0b00000 && t.pc == 0x0101 && t.cyc == 10) = true := by
  decide

theorem test_popRp_wraps :
    ran (code 0x0100 [0xC1] (poke 0x0000 0x11 (poke 0xFFFF 0x22 (base.setSp 0xFFFF)))) (fun t =>
      t.pair .bc == 0x1122 && t.sp == 0x0001 && t.flags == bits 0b00000 && t.pc == 0x0101 && t.cyc == 10) = true := by
  decide

theorem test_popPsw :
    ran (code 0x0100 [0xF1] (poke 0x2C01 0xFF (poke 0x2C00 0xC3 (base.setSp 0x2C00)))) (fun t =>
      t.reg .a == 0xFF && t.sp == 0x2C02 && t.flags == bits 0b11001 && t.pc == 0x0101 && t.cyc == 10) = true := by
  decide

theorem test_popPsw_ignores_bits :
    ran (code 0x0100 [0xF1] (poke 0x2C01 0x01 (poke 0x2C00 0x28 (base.setSp 0x2C00)))) (fun t =>
      t.reg .a == 0x01 && t.sp == 0x2C02 && t.flags == bits 0b00000 && t.pc == 0x0101 && t.cyc == 10) = true := by
  decide

theorem test_xthl :
    ran (code 0x0100 [0xE3] (poke 0x10AE 0x0D (poke 0x10AD 0xF0 ((base.setSp 0x10AD).setPair .hl 0x0B3C)))) (fun t =>
      t.pair .hl == 0x0DF0 && byteAt t 0x10AD == 0x3C && byteAt t 0x10AE == 0x0B && t.sp == 0x10AD && t.flags == bits 0b00000 && t.pc == 0x0101 && t.cyc == 18) = true := by
  decide

theorem test_sphl :
    ran (code 0x0100 [0xF9] (base.setPair .hl 0x506C)) (fun t =>
      t.sp == 0x506C && t.flags == bits 0b00000 && t.pc == 0x0101 && t.cyc == 5) = true := by
  decide

/-! Section 9: I/O and special. For IN, INPUT is a host that has 0xA5 ready. -/

theorem test_inP :
    ran (code 0x0100 [0xDB, 0x03] (external [0xA5] base)) (fun t =>
      t.reg .a == 0xA5 && t.events == [.input 0x03 0xA5] && t.flags == bits 0b00000 && t.pc == 0x0102 && t.cyc == 10) = true := by
  decide

theorem test_inP_unmapped :
    ran (code 0x0100 [0xDB, 0x77] base) (fun t =>
      t.reg .a == 0x00 && t.events == [.input 0x77 0x00] && t.pc == 0x0102 && t.cyc == 10) = true := by
  decide

theorem test_outP :
    ran (code 0x0100 [0xD3, 0x02] (base.setReg .a 0x02)) (fun t =>
      t.reg .a == 0x02 && t.events == [.output 0x02 0x02] && t.dev.shiftOff == 2 && t.pc == 0x0102 && t.cyc == 10) = true := by
  decide

theorem test_outP_unmapped :
    ran (code 0x0100 [0xD3, 0x77] (base.setReg .a 0x99)) (fun t =>
      t.dev == base.dev && t.events == [.output 0x77 0x99] && t.pc == 0x0102 && t.cyc == 10) = true := by
  decide

theorem test_ei :
    ran (code 0x0100 [0xFB] base) (fun t =>
      t.ie && t.pc == 0x0101 && t.cyc == 4) = true := by
  decide

theorem test_di :
    ran (code 0x0100 [0xF3] (base.setIe true)) (fun t =>
      !t.ie && t.pc == 0x0101 && t.cyc == 4) = true := by
  decide

theorem test_hlt :
    ran (code 0x0040 [0x76] base) (fun t =>
      t.halted && t.pc == 0x0041 && t.cyc == 7) = true := by
  decide

theorem test_nop_pc_wraps :
    ran (code 0xFFFF [0x00] base) (fun t =>
      !t.halted && t.pc == 0x0000 && t.cyc == 4) = true := by
  decide

/-! ### Errors and the instruction boundary (sections 4, 8 and 9) -/

theorem test_lda_out_of_bounds :
    faultOf (code 0x0100 [0x3A, 0x00, 0x40] small) = some (.memoryOutOfBounds 0x4000) := by decide

theorem test_push_out_of_bounds :
    faultOf (code 0x0100 [0xC5] small) = some (.memoryOutOfBounds 0xFFFF) := by decide

theorem test_unsupported_opcode :
    refusalOf (code 0x0100 [0x08] base) = some (.unsupportedOpcode 0x08 0x0100) := by decide

theorem test_placed_word_runs :
    ran (step (State.reset.withFetchWord 16 0x423E)) (fun t =>
      t.reg .a == 0x42 && t.pc == 0x0002 && t.cyc == 7) = true := by decide

/-! ### The status byte (section 3) -/

theorem test_status_byte :
    ([(bits 0b00000).pack, (bits 0b11111).pack, (bits 0b01001).pack, (bits 0b10010).pack, (bits 0b00100).pack] =
      [0x02, 0xD7, 0x43, 0x86, 0x12]) ∧
    [Flags.unpack 0x28, Flags.unpack 0xC3, Flags.unpack 0xFF] = [bits 0, bits 0b11001, bits 0b11111] := by decide

/-! ### Interrupts and the synchronizer (section 10) -/

/-- The delivery of section 10.1, from a halted CPU. -/
def halted41 : State := ((base.setPc 0x0041).setSp 0x2400).setHalted true

theorem test_interrupt_rejected : interrupt 0x0008 halted41 = .next .rejected := rfl

/-- The state of an accepted delivery passes the check. -/
def accepted (r : Res Delivery) (check : State → Bool) : Bool :=
  match r with
  | .next (.accepted t) => check t
  | .next .rejected => false
  | .fault _ => false
  | .refused _ => false

theorem test_interrupt_accepted :
    accepted (interrupt 0x0008 (halted41.setIe true)) (fun t =>
      t.pc == 0x0008 && t.sp == 0x23FE && byteAt t 0x23FE == 0x41 && byteAt t 0x23FF == 0x00 && !t.ie &&
      !t.halted && t.cyc == 0) = true := by decide

theorem test_interrupt_keeps_ie :
    accepted (interrupt 0x0010 { (halted41.setPc 0x1234).setIe true with
        cfg := { Config.arcade with intClearsIe := false } }) (fun t =>
      t.pc == 0x0010 && byteAt t 0x23FE == 0x34 && byteAt t 0x23FF == 0x12 && t.ie) = true := by decide

theorem test_interrupt_out_of_bounds :
    faultOf (interrupt 0x0008 ((small.setPc 0x1234).setIe true)) = some (.memoryOutOfBounds 0xFFFF) := by decide

/-- R232: a halted CPU idles to the target of the burst. -/
theorem test_halted_idles : ran (step halted41) (fun t => t.fc == 16666 && t.cyc == 0 && t.halted) = true := by decide

/-- Section 10.2, the busy loop with interrupts enabled: delivery A at `fc` = 16674. -/
theorem test_delivery_a :
    ran (step ((((base.setPc 0x0004).setSp 0x2400).setIe true).setFc 16674)) (fun t =>
      t.fc == 16674 && t.pc == 0x0008 && t.sp == 0x23FE && byteAt t 0x23FE == 0x04 && !t.ie &&
      t.nextVec == .b && t.half == .second) = true := by decide

/-- The same loop: delivery B at `fc` = 33338 ends the frame and carries 5 over. -/
theorem test_delivery_b_ends_frame :
    ran (step { (((base.setPc 0x0004).setSp 0x2400).setIe true).setFc 33338 with nextVec := .b, half := .second })
      (fun t => t.fc == 5 && t.pc == 0x0010 && t.nextVec == .a && t.half == .first) = true := by decide

/-! ### Port devices (sections 1.7, 1.8 and 10.3) -/

theorem test_shift_result :
    ((List.range 8).map fun k =>
      ({ shift := 0x12FF, shiftOff := BitVec.ofNat 3 k, watchdog := 0, sound1 := 0, sound2 := 0 } : Devices).shiftResult) =
      [0x12, 0x25, 0x4B, 0x97, 0x2F, 0x5F, 0xBF, 0x7F] := by decide

theorem test_device_writes :
    (base.dev.portWrite 4 0xFF).1.shift = 0xFF00 ∧ ((base.dev.portWrite 4 0xFF).1.portWrite 4 0x12).1.shift = 0x12FF ∧
    (base.dev.portWrite 2 0x0B).1.shiftOff = 3 ∧ (base.dev.portWrite 2 0xF8).1.shiftOff = 0 ∧
    base.dev.portWrite 6 0x5A = ({ base.dev with watchdog := 0x5A }, []) := by decide

theorem test_sound_edges :
    soundEvents .one 0x00 0x01 = [.sound .one 0] ∧ soundEvents .one 0x01 0x01 = [] ∧
    soundEvents .one 0x01 0x03 = [.sound .one 1] ∧ soundEvents .one 0x03 0x02 = [] ∧
    soundEvents .one 0x02 0x0D = [.sound .one 0, .sound .one 2, .sound .one 3] := by decide

/-! ### The conformance harness (section 1.5) and the loader (R224, R262) -/

/-- The first row of section 1.5. -/
def printing : State :=
  poke 0x23FE 0x03 (poke 0x23FF 0x01 (poke 0x0200 0x4F (poke 0x0201 0x4B (poke 0x0202 0x24
    ((((harness.setPc 0x0005).setSp 0x23FE).setReg .c 9).setPair .de 0x0200)))))

theorem test_harness_prints_string :
    ran (step printing) (fun t =>
      t.events == [.print 0x4F, .print 0x4B] && t.pc == 0x0103 && t.sp == 0x2400 && t.cyc == 0) = true := by decide

theorem test_harness_prints_character :
    ran (step ((printing.setReg .c 2).setReg .e 0x41)) (fun t =>
      t.events == [.print 0x41] && t.pc == 0x0103 && t.sp == 0x2400) = true := by decide

theorem test_harness_prints_nothing :
    ran (step (printing.setReg .c 0)) (fun t => t.events == [] && t.pc == 0x0103 && t.sp == 0x2400) = true := by
  decide

theorem test_harness_ends : faultOf (step (printing.setPc 0x0000)) = some .harnessEnd := by decide

theorem test_loader_places_parts :
    ran (startArcade (.conventional (.bytes [1]) (.bytes [2, 3]) (.bytes [4]) (.bytes [5]))) (fun t =>
      t.mem == [(0x0000, 1), (0x0800, 2), (0x0801, 3), (0x1000, 4), (0x1800, 5)] && t.pc == 0x0000 && t.cyc == 0)
      = true := by decide

theorem test_loader_failure :
    faultOf (startArcade (.conventional (.bytes [1]) (.failed "missing") (.bytes []) (.bytes []))) =
      some (.romLoadFailure "invaders.g" "missing") := by decide

/-- R262: a part as long as its room loads; one byte more than 0x800 in an arcade part ends the start. -/
theorem test_loader_room :
    ran (loadPart { name := "p", offset := 0x3FFE, room := 2, contents := .bytes [1, 2] } small) (fun t =>
      t.mem == [(0x3FFE, 1), (0x3FFF, 2)]) = true ∧
    faultOf (startArcade (.conventional (.bytes (List.replicate 0x801 0)) (.bytes []) (.bytes []) (.bytes []))) =
      some (.romLoadFailure "invaders.h" partTooLong) := by decide +kernel

/-- A test image that prints 'A' by CP/M function 2 and jumps to 0x0000 (LXI SP; MVI C,2; MVI E,'A'; CALL 5; JMP 0). -/
def printsA (banner : List Byte) : ConformanceTest where
  file := ⟨"test", .bytes [0x31, 0x00, 0x24, 0x0E, 0x02, 0x1E, 0x41, 0xCD, 0x05, 0x00, 0xC3, 0x00, 0x00]⟩
  banner := banner

/-- R264: the run passes with the banner it prints, and not with another one. -/
theorem test_conformance_verdict :
    (printsA [0x41]).passesWithin 7 = true ∧ (printsA [0x42]).passesWithin 7 = false ∧
    (printsA [0x41]).verdict 6 = .goesOn := by decide +kernel

/-! ### A witness for each obligation with hypotheses

The states sit on the edges of the clauses: memory of 16384 bytes ends at 0x3FFF, so a word at 0x3FFE is the last one
inside, one at 0x3FFF fails at its second byte, and one at 0x4000 at its first. -/

/-- A pair operand state: HL, BC and DE at one address. -/
def pointing (a : Word) : State := ((small.setPair .hl a).setPair .bc a).setPair .de a

theorem witness_UnsupportedOpcodesAreTheTwelve : (0xFD#8 : Byte) ∈ unsupportedOpcodes ∧ (0xFC#8 : Byte) ∉ unsupportedOpcodes := by
  decide

theorem witness_LengthDependsOnOpcodeOnly :
    0xCD ∉ unsupportedOpcodes ∧ lengthOf 0xCD = ([0x00, 0x30] : List Byte).length + 1 ∧
    ([0x00] : List Byte).length + 1 < lengthOf 0xCD := by decide

theorem witness_DecodeOfEncodeIsIdentity : (Instr.rst 7).wellFormed = true := by decide

theorem witness_EncodeOfDecodeIsIdentity : decode [0xFF, 0x12] = .ok (.rst 7) [0x12] := by decide

theorem witness_SynchronizerStepRunsDecoded :
    let s := (coded 0xFFFE [0xC3, 0x34, 0x12] base).setFc 16665
    s.cfg.runner = .synchronizer ∧ s.fc < burstTarget s ∧ s.halted = false ∧
    decode (bytesAtPc s) = .ok (.jmp 0x1234) [] ∧ FetchInRange s (.jmp 0x1234) :=
  ⟨by decide, by decide, by decide, by decide, fun _ _ => BitVec.isLt _⟩

theorem witness_HarnessStepRunsDecoded :
    let s := coded 0x3FFF [0x76] harness
    s.cfg.runner = .harness ∧ s.pc ≠ 0x0005#16 ∧ s.pc ≠ 0x0000#16 ∧ s.halted = false ∧
    decode (bytesAtPc s) = .ok .hlt [0, 0] ∧ FetchInRange s .hlt := by
  refine ⟨by decide, by decide, by decide, by decide, by decide, fun k hk => ?_⟩
  have : k = 0 := by simpa [Instr.length, encode, Instr.operandBytes] using hk
  subst this; decide

theorem witness_PlacedWordRunsNext :
    let s := (small.setPc 0x3FFD).setHalted true
    s.cfg.runner = .synchronizer ∧ 0 < burstTarget s ∧ s.mem.wf = true ∧ InRange s s.pc ∧ InRange s (s.pc + 1) ∧
    InRange s (s.pc + 2) ∧ decodeTableWord 24 0x3000CD = some (.call 0x3000) := by decide

theorem witness_HaltedCpuDoesNotRun :
    (halted41.halted = true ∧ halted41.cfg.runner = .synchronizer ∧ halted41.fc < burstTarget halted41) ∧
    (let h := (harness.setHalted true); h.halted = true ∧ h.cfg.runner = .harness ∧ h.pc ≠ 0x0005#16 ∧
      h.pc ≠ 0x0000#16) := by decide

theorem witness_UnsupportedOpcodeIsRefused :
    let s := coded 0x3FFF [0xFD] small
    s.halted = false ∧ InRange s s.pc ∧ byteAt s s.pc ∈ unsupportedOpcodes ∧ s.cfg.runner = .synchronizer ∧
    s.fc < burstTarget s := by decide

theorem witness_FetchReportsFirstOutOfBounds :
    ((small.setPc 0x4000).halted = false ∧ ¬InRange small 0x4000) ∧
    (let s := coded 0x3FFF [0x3E] small
     s.halted = false ∧ InRange s s.pc ∧ byteAt s s.pc ∈ lengthTwo ∧ ¬InRange s (s.pc + 1)) ∧
    (let s := coded 0x3FFF [0xC3] small
     s.halted = false ∧ InRange s s.pc ∧ byteAt s s.pc ∈ lengthThree ∧ ¬InRange s (s.pc + 1)) ∧
    (let s := coded 0x3FFE [0xC3] small
     s.halted = false ∧ InRange s s.pc ∧ byteAt s s.pc ∈ lengthThree ∧ InRange s (s.pc + 1) ∧
      ¬InRange s (s.pc + 2)) := by decide

theorem witness_FullMemoryNeverFaults : 65536 ≤ base.cfg.memSize ∧ base.cfg.runner = .synchronizer := by decide

theorem witness_InstructionStopsOnlyOutOfBounds :
    faultOf (exec (.sta 0x4000) small) = some (.memoryOutOfBounds 0x4000) ∧ ¬InRange small 0x4000 := by decide

/-- `Encoded`: JMP with its last byte at the end of memory, and with its third byte just outside it. -/
theorem witness_Encoded :
    (let s := coded 0x3FFD [0xC3, 0x34, 0x12] small
     s.halted = false ∧ BytesAtPc s (code3 0xC3 0x1234) (code3 0xC3 0x1234).length) ∧
    (let s := coded 0x3FFE [0xC3, 0x34] small
     s.halted = false ∧ 2 < (code3 0xC3 0x1234).length ∧ BytesAtPc s (code3 0xC3 0x1234) 2 ∧
      ¬InRange s (s.pc + BitVec.ofNat 16 2)) :=
  ⟨⟨by decide, by unfold BytesAtPc; decide⟩, by decide, by decide, by unfold BytesAtPc; decide, by decide⟩

/-- The memory operand of MOV, LDAX, STAX, INR, DCR, and the arithmetic and logical M forms. -/
theorem witness_byte_operands :
    (InRange (pointing 0x3FFF) (pointing 0x3FFF).hl ∧ (pointing 0x3FFF).mem.wf = true ∧
      InRange (pointing 0x3FFF) ((pointing 0x3FFF).ptr .bc) ∧ InRange (pointing 0x3FFF) ((pointing 0x3FFF).ptr .de)) ∧
    (¬InRange (pointing 0x4000) (pointing 0x4000).hl ∧ (pointing 0x4000).mem.wf = true ∧
      ¬InRange (pointing 0x4000) ((pointing 0x4000).ptr .bc) ∧ ¬InRange (pointing 0x4000) ((pointing 0x4000).ptr .de)) := by
  decide

theorem witness_LoadsReadTheirAddress :
    InRange (pointing 0x3FFF) (pointing 0x3FFF).hl ∧ ¬InRange (pointing 0x4000) (pointing 0x4000).hl ∧
    faultOf (exec (.ldax .de) (pointing 0x4000)) = some (.memoryOutOfBounds 0x4000) ∧
    ran (exec (.ldax .de) (pointing 0x3FFF)) (fun t => t.reg .a == 0) = true := by decide

theorem witness_StoresWriteTheirAddress :
    (pointing 0x3FFF).mem.wf = true ∧ InRange (pointing 0x3FFF) (pointing 0x3FFF).hl ∧
    ¬InRange (pointing 0x4000) (pointing 0x4000).hl ∧
    faultOf (exec (.mviM 7) (pointing 0x4000)) = some (.memoryOutOfBounds 0x4000) ∧
    ran (exec (.mviM 7) (pointing 0x3FFF)) (fun t => t.mem == [(0x3FFF, 7)]) = true := by decide

theorem witness_WordLoadsAndStores :
    small.mem.wf = true ∧ WordInRange small 0x3FFE ∧ (InRange small 0x3FFF ∧ ¬InRange small 0x4000) ∧
    faultOf (exec (.shld 0x3FFF) small) = some (.memoryOutOfBounds 0x4000) ∧
    faultOf (exec (.lhld 0xFFFF) small) = some (.memoryOutOfBounds 0xFFFF) :=
  ⟨by decide, ⟨by decide, by decide⟩, by decide, by decide, by decide⟩

theorem witness_AdditionsGiveSumAndFlags :
    InRange (pointing 0x3FFF) (pointing 0x3FFF).hl ∧ ¬InRange (pointing 0x4000) (pointing 0x4000).hl ∧
    faultOf (exec .adcM (pointing 0x4000)) = some (.memoryOutOfBounds 0x4000) := by decide

theorem witness_SubtractionsGiveDifferenceAndFlags :
    InRange (pointing 0x3FFF) (pointing 0x3FFF).hl ∧ ¬InRange (pointing 0x4000) (pointing 0x4000).hl ∧
    faultOf (exec .sbbM (pointing 0x4000)) = some (.memoryOutOfBounds 0x4000) := by decide

theorem witness_ComparesSetFlagsOnly :
    InRange (pointing 0x3FFF) (pointing 0x3FFF).hl ∧ ¬InRange (pointing 0x4000) (pointing 0x4000).hl ∧
    faultOf (exec .cmpM (pointing 0x4000)) = some (.memoryOutOfBounds 0x4000) := by decide

theorem witness_IncrementsKeepCarry :
    (pointing 0x3FFF).mem.wf = true ∧ InRange (pointing 0x3FFF) (pointing 0x3FFF).hl ∧
    ¬InRange (pointing 0x4000) (pointing 0x4000).hl ∧
    faultOf (exec .dcrM (pointing 0x4000)) = some (.memoryOutOfBounds 0x4000) := by decide

theorem witness_PairIncrementsTouchNoFlag :
    ((Pair.hl = .bc ∧ RegPair.hl = .bc) ∨ (Pair.hl = .de ∧ RegPair.hl = .de) ∨ (Pair.hl = .hl ∧ RegPair.hl = .hl)) := by
  decide

theorem witness_DaaGivesDecimalSum :
    let s := ((base.setReg .a (bcd 99)).setReg .b (bcd 99)).setFlags (bits 0b00001)
    99 < 100 ∧ s.reg .a = bcd 99 ∧ s.reg .b = bcd 99 ∧
    ran (exec (.adcR .b) s) (fun t => ran (exec .daa t) (fun u => u.reg .a == 0x99 && u.flags.cy)) = true := by decide

theorem witness_LogicalOperationsClearCarry :
    InRange (pointing 0x3FFF) (pointing 0x3FFF).hl ∧ ¬InRange (pointing 0x4000) (pointing 0x4000).hl ∧
    faultOf (exec .oraM (pointing 0x4000)) = some (.memoryOutOfBounds 0x4000) := by decide

theorem witness_JumpsWriteOnlyPc :
    CondTrue .z (base.setFlags (bits 0b01000)).flags ∧ ¬CondTrue .z base.flags ∧ CondTrue .p base.flags ∧
    ¬CondTrue .pe base.flags :=
  ⟨rfl, fun h => Bool.noConfusion (show false = true from h), rfl,
    fun h => Bool.noConfusion (show false = true from h)⟩

/-- SP at which a push is just inside the memory, fails at its first write, and fails at its second. -/
theorem witness_CanPush :
    CanPush (small.setSp 0x0002) ∧ CanPush (small.setSp 0x4000) ∧ ¬InRange (small.setSp 0x4001) 0x4000 ∧
    (InRange (small.setSp 0x0001) 0x0000 ∧ ¬InRange (small.setSp 0x0001) 0xFFFF) :=
  ⟨⟨by decide, by decide⟩, ⟨by decide, by decide⟩, by decide, by decide, by decide⟩

theorem witness_CallsPushReturnAddress :
    (small.setSp 0x4000).mem.wf = true ∧ CanPush (small.setSp 0x4000) ∧ CondTrue .nc (small.setSp 0x4000).flags ∧
    ¬CondTrue .c (small.setSp 0x4000).flags ∧
    faultOf (exec (.ccc .nc 0) (small.setSp 0x4001)) = some (.memoryOutOfBounds 0x4000) ∧
    faultOf (exec (.call 0) (small.setSp 0x0001)) = some (.memoryOutOfBounds 0xFFFF) :=
  ⟨by decide, ⟨by decide, by decide⟩, rfl, fun h => Bool.noConfusion (show false = true from h), by decide, by decide⟩

theorem witness_RstCallsItsVector :
    (small.setSp 0x0002).mem.wf = true ∧ 7 < 8 ∧ CanPush (small.setSp 0x0002) ∧
    faultOf (exec (.rst 7) (small.setSp 0x0001)) = some (.memoryOutOfBounds 0xFFFF) :=
  ⟨by decide, by decide, ⟨by decide, by decide⟩, by decide⟩

theorem witness_ReturnsPopPc :
    WordInRange (small.setSp 0x3FFE) 0x3FFE ∧ CondTrue .po small.flags ∧ ¬CondTrue .m small.flags ∧
    faultOf (exec .ret (small.setSp 0x3FFF)) = some (.memoryOutOfBounds 0x4000) ∧
    faultOf (exec (.rcc .po) (small.setSp 0x4000)) = some (.memoryOutOfBounds 0x4000) :=
  ⟨⟨by decide, by decide⟩, rfl, fun h => Bool.noConfusion (show false = true from h), by decide, by decide⟩

theorem witness_ReturnResumesAfterCall : (small.setSp 0x4000).mem.wf = true ∧ CanPush (small.setSp 0x4000) :=
  ⟨by decide, by decide, by decide⟩

theorem witness_PushAndPopPairs :
    small.mem.wf = true ∧ CanPush (small.setSp 0x4000) ∧ WordInRange (small.setSp 0x3FFE) 0x3FFE ∧
    faultOf (exec (.pushRp .de) (small.setSp 0x0001)) = some (.memoryOutOfBounds 0xFFFF) ∧
    faultOf (exec (.popRp .de) (small.setSp 0x3FFF)) = some (.memoryOutOfBounds 0x4000) :=
  ⟨by decide, ⟨by decide, by decide⟩, ⟨by decide, by decide⟩, by decide, by decide⟩

theorem witness_PushAndPopPsw :
    small.mem.wf = true ∧ CanPush (small.setSp 0x0002) ∧ WordInRange (small.setSp 0x3FFE) 0x3FFE ∧
    faultOf (exec .pushPsw (small.setSp 0x4001)) = some (.memoryOutOfBounds 0x4000) ∧
    faultOf (exec .popPsw (small.setSp 0x4000)) = some (.memoryOutOfBounds 0x4000) :=
  ⟨by decide, ⟨by decide, by decide⟩, ⟨by decide, by decide⟩, by decide, by decide⟩

theorem witness_PushThenPopIsSymmetric : (base.setSp 0x0001).mem.wf = true ∧ CanPush (base.setSp 0x0001) :=
  ⟨by decide, by decide, by decide⟩

theorem witness_XthlAndSphl :
    small.mem.wf = true ∧ WordInRange (small.setSp 0x3FFE) 0x3FFE ∧
    faultOf (exec .xthl (small.setSp 0x3FFF)) = some (.memoryOutOfBounds 0x4000) ∧
    faultOf (exec .xthl (small.setSp 0x4000)) = some (.memoryOutOfBounds 0x4000) :=
  ⟨by decide, ⟨by decide, by decide⟩, by decide, by decide⟩

/-- Every clause of IN at the edges of its ports: 2 drawn, 3 the shift result, 4 unmapped, and an external host. -/
theorem witness_InReadsItsPort :
    ((2#8 : Byte).toNat < 3 ∧ 3 < (4#8 : Byte).toNat ∧ base.cfg.ports = .arcade ∧ base.inputs = [] ∧
      (external [0xA5] base).cfg.ports = .external ∧ (external [0xA5] base).inputs = [0xA5]) ∧
    ran (exec (.inP 2) base) (fun t => t.draws == 1) = true ∧
    ran (exec (.inP 2) { base with inputs := [7, 8] }) (fun t => t.reg .a == 7 && t.inputs == [8]) = true ∧
    ran (exec (.inP 4) { base with inputs := [7, 8] }) (fun t => t.reg .a == 0 && t.inputs == [7, 8]) = true := by
  decide

/-- Every clause of OUT at the edges of its ports. -/
theorem witness_OutWritesItsPort :
    let s := base.setReg .a 0xFF
    s.cfg.ports = .arcade ∧ (external [] s).cfg.ports = .external ∧
    ran (exec (.outP 1) s) (fun t => t.dev == s.dev) = true ∧
    ran (exec (.outP 2) s) (fun t => t.dev.shiftOff == 7) = true ∧
    ran (exec (.outP 3) s) (fun t => t.dev.sound1 == 0xFF && t.events.length == 9) = true ∧
    ran (exec (.outP 5) s) (fun t => t.dev.sound2 == 0xFF && t.events.length == 9) = true ∧
    ran (exec (.outP 6) s) (fun t => t.dev.watchdog == 0xFF) = true ∧
    ran (exec (.outP 7) s) (fun t => t.dev == s.dev) = true ∧
    ran (exec (.outP 4) (external [] s)) (fun t => t.dev == s.dev) = true := by decide

theorem witness_InterruptDelivery :
    base.mem.wf = true ∧ base.ie = false ∧ (halted41.setIe true).ie = true ∧ CanPush (halted41.setIe true) ∧
    faultOf (interrupt 8 ((small.setSp 0x4001).setIe true)) = some (.memoryOutOfBounds 0x4000) ∧
    faultOf (interrupt 8 ((small.setSp 0x0001).setIe true)) = some (.memoryOutOfBounds 0xFFFF) :=
  ⟨by decide, by decide, by decide, ⟨by decide, by decide⟩, by decide, by decide⟩

theorem witness_DeliveryPointOffersAndToggles :
    let s := base.setFc 16666
    let u := { (halted41.setIe true).setFc 33333 with nextVec := .b, half := .second }
    (s.cfg.runner = .synchronizer ∧ burstTarget s ≤ s.fc ∧ s.ie = false ∧ s.half = .first) ∧
    (u.cfg.runner = .synchronizer ∧ burstTarget u ≤ u.fc ∧ u.ie = true ∧ u.mem.wf = true ∧ CanPush u ∧
      u.half = .second) :=
  ⟨⟨by decide, by decide, by decide, by decide⟩, by decide, by decide, by decide, by decide, ⟨by decide, by decide⟩, by decide⟩

/-- A state below its burst's target that meets both invariants, and a step from it. -/
theorem witness_StepKeepsInvariant :
    (coded 0x0100 [0xC5] base).Inv ∧ (coded 0x0100 [0xC5] base).TimingInv ∧
    TimedConfig (coded 0x0100 [0xC5] base).cfg ∧ (coded 0x0100 [0xC5] base).cfg.runner = .synchronizer ∧
    ran (code 0x0100 [0xC5] base) (fun t => t.sp == 0xFFFE) = true := by
  refine ⟨⟨by decide, by decide, by decide⟩, ?_, ⟨by decide, by decide⟩, by decide, by decide⟩
  show _ ≤ _
  decide

/-- The largest overshoot, at the end of a frame: 17 is left in `fc`. -/
theorem witness_StepKeepsTimingBound :
    let s := { base.setFc 33350 with nextVec := .b, half := .second }
    s.cfg.runner = .synchronizer ∧ TimedConfig s.cfg ∧ s.TimingInv ∧
    ran (step s) (fun t => t.half == .first && t.fc == 17) = true := by
  refine ⟨by decide, ⟨by decide, by decide⟩, ?_, by decide⟩
  show _ ≤ _
  decide

theorem witness_SequentialPcAdvance :
    branching .hlt = false ∧ branchingOpcode 0x76 = false ∧
    ran (code 0xFFFF [0x76] base) (fun t => t.pc == 0xFFFF + BitVec.ofNat 16 (lengthOf 0x76)) = true := by decide

theorem witness_UntouchedFlagsRetainValue :
    ran (exec (.inrR .a) (base.setFlags (bits 0b00001))) (fun t => t.flags.cy) = true ∧
    (writtenFlags (.inrR .a)).cy = false ∧ writtenFlags (.shld 0x2000) = bits 0 := by decide

theorem witness_RegistersWrittenOnlyByRule :
    ran (exec (.dad .sp) base) (fun t => t.sp == base.sp) = true ∧ writtenRegs (.dad .sp) = [.h, .l] ∧
    mayWriteSp (.dad .sp) = false := by decide

theorem witness_MemoryWrittenOnlyByStores :
    base.mem.wf = true ∧ storeAddresses base (.shld 0xFFFF) = [0xFFFF, 0x0000] ∧
    ran (exec (.shld 0xFFFF) (base.setPair .hl 0x1234)) (fun t => t.mem == [(0x0000, 0x12), (0xFFFF, 0x34)]) = true := by
  decide

theorem witness_MachineStateWrittenOnlyByRule :
    (∀ p, Instr.nop ≠ .inP p) ∧ (∀ p, Instr.nop ≠ .outP p) ∧ Instr.nop ≠ .ei ∧ Instr.nop ≠ .di ∧ Instr.nop ≠ .hlt ∧
    ran (exec .nop base) (fun t => t.ie == base.ie) = true :=
  ⟨(by simp), (by simp), by decide, by decide, by decide, by decide⟩

theorem witness_OnlyDeliveryRevives :
    let s := (halted41.setIe true).setFc 16666
    s.halted = true ∧ ran (step s) (fun t => !t.halted) = true := by decide

theorem witness_CycleCountOnlyGrows : ran (code 0x0100 [0xD3, 0x03] (base.setReg .a 1)) (fun t => t.cyc == 10) = true := by
  decide

/-- The three prints of the harness, and its end. -/
theorem witness_HarnessInterceptsAndEnds :
    (printing.cfg.runner = .harness ∧ printing.pc = 0x0005#16 ∧ WordInRange printing printing.sp) ∧
    (let cs : List Byte := [0x4F, 0x4B]
     printing.reg .c = 9 ∧ cs.length < 65536 ∧
      (∀ k, k < cs.length → InRange printing (printing.pair .de + BitVec.ofNat 16 k) ∧
        cs[k]? = some (byteAt printing (printing.pair .de + BitVec.ofNat 16 k)) ∧
        byteAt printing (printing.pair .de + BitVec.ofNat 16 k) ≠ 0x24#8) ∧
      InRange printing (printing.pair .de + BitVec.ofNat 16 cs.length) ∧
      byteAt printing (printing.pair .de + BitVec.ofNat 16 cs.length) = 0x24#8) ∧
    (printing.setReg .c 2).reg .c = 2 ∧ (printing.setReg .c 0).reg .c = 0 ∧
    (printing.setPc 0x0000).pc = 0x0000#16 :=
  ⟨⟨by decide, by decide, by decide, by decide⟩, by decide, by decide, by decide, by decide⟩

end Sys2Proof.Tests
end

/-! ### The pairs as views of their registers (10_state.md R22) -/

section
namespace Sys2Proof.Machine

variable (s : State) (v : Word)

/-! No register is the high one of a pair and the low one of another, and distinct pairs share no register. -/

@[simp] theorem pairHi_ne_pairLo (rp rq : Pair) : pairHi rp ≠ pairLo rq := by
  cases rp <;> cases rq <;> exact Reg.noConfusion

theorem pairHi_injective : Function.Injective pairHi
  | .bc, .bc, _ => rfl
  | .de, .de, _ => rfl
  | .hl, .hl, _ => rfl

theorem pairLo_injective : Function.Injective pairLo
  | .bc, .bc, _ => rfl
  | .de, .de, _ => rfl
  | .hl, .hl, _ => rfl

theorem pair_eq_joinBytes (rp : Pair) : s.pair rp = joinBytes (s.reg (pairHi rp)) (s.reg (pairLo rp)) := rfl

theorem pair_toNat (rp : Pair) :
    (s.pair rp).toNat = 256 * (s.reg (pairHi rp)).toNat + (s.reg (pairLo rp)).toNat := by
  rw [pair_eq_joinBytes, joinBytes_toNat]

/-- `get_setPair` at the level of the state. -/
theorem setPair_reg (rp : Pair) (q : Reg) :
    (s.setPair rp v).reg q = if q = pairLo rp then loByte v else if q = pairHi rp then hiByte v else s.reg q :=
  get_setPair ..

@[simp] theorem setPair_reg_pairHi (rp : Pair) : (s.setPair rp v).reg (pairHi rp) = hiByte v := by
  simp [setPair_reg]

@[simp] theorem setPair_reg_pairLo (rp : Pair) : (s.setPair rp v).reg (pairLo rp) = loByte v := by
  simp [setPair_reg]

@[simp] theorem setPair_pair_same (rp : Pair) : (s.setPair rp v).pair rp = v := by
  rw [pair_eq_joinBytes, setPair_reg_pairHi, setPair_reg_pairLo, joinBytes_bytes]

theorem setPair_pair_other {rp rq : Pair} (h : rq ≠ rp) : (s.setPair rp v).pair rq = s.pair rq := by
  have hhi : (s.setPair rp v).reg (pairHi rq) = s.reg (pairHi rq) := by
    simp [setPair_reg, pairHi_injective.ne h]
  have hlo : (s.setPair rp v).reg (pairLo rq) = s.reg (pairLo rq) := by
    simp [setPair_reg, pairLo_injective.ne h, (pairHi_ne_pairLo rp rq).symm]
  rw [pair_eq_joinBytes, hhi, hlo, pair_eq_joinBytes]

end Sys2Proof.Machine
end

section
namespace Sys2Proof.Proofs

open Sys2Proof.Machine

/-- Settles O20: a pair reads as its two registers joined; a write splits the value over exactly those two, and no
other pair is made of either. -/
theorem pairIsViewOfTwoRegisters : Obligations.PairIsViewOfTwoRegisters := by
  intro s v
  refine ⟨pair_toNat s .bc, pair_toNat s .de, pair_toNat s .hl, rfl, fun rp => ⟨?readBack, ?others⟩, fun rp => ⟨?hi, ?lo⟩⟩
  case readBack => exact setPair_pair_same s v rp
  case others => exact fun rq h => setPair_pair_other s v h
  case hi => rw [setPair_reg_pairHi, hiByte_toNat]
  case lo => rw [setPair_reg_pairLo, loByte_toNat]

end Sys2Proof.Proofs
end

/-! ### The opcode byte and the instruction it selects (30_encoding.md R71, R73, R82) -/

section
namespace Sys2Proof

open Sys2Proof.Spec Sys2Proof.Laws.EncodedLength

/-- The form an instruction's own constructor asks for (R71): the decoder must give its opcode this form. -/
def Instr.form : Instr → Form
  | .mviR r _ => .two (.mviR r)
  | .mviM _ => .two .mviM
  | .adi _ => .two .adi
  | .aci _ => .two .aci
  | .sui _ => .two .sui
  | .sbi _ => .two .sbi
  | .ani _ => .two .ani
  | .xri _ => .two .xri
  | .ori _ => .two .ori
  | .cpi _ => .two .cpi
  | .inP _ => .two .inP
  | .outP _ => .two .outP
  | .lxi rp _ => .three (.lxi rp)
  | .shld _ => .three .shld
  | .lhld _ => .three .lhld
  | .sta _ => .three .sta
  | .lda _ => .three .lda
  | .jmp _ => .three .jmp
  | .jcc cc _ => .three (.jcc cc)
  | .call _ => .three .call
  | .ccc cc _ => .three (.ccc cc)
  | i => .one i

/-- Whatever operand a form is given, the instruction it makes is well formed, and its bytes are `op` and the operand. -/
def Form.Encodes (op : Byte) : Form → Prop
  | .one i => i.wellFormed = true ∧ encode i = [op]
  | .two k => ∀ d8, (k d8).wellFormed = true ∧ encode (k d8) = [op, d8]
  | .three k => ∀ d16, (k d16).wellFormed = true ∧ encode (k d16) = op :: wordBytes d16
  | .unsupported => True

/-- The instruction of a form with the operand 0. -/
def Form.atZero : Form → Option Instr
  | .one i => some i
  | .two k => some (k 0)
  | .three k => some (k 0)
  | .unsupported => none

theorem wellFormed_rst {n : Nat} : (Instr.rst n).wellFormed = true ↔ n < 8 := decide_eq_true_iff

theorem formLength_form (i : Instr) : formLength i.form = i.length := by cases i <;> rfl

theorem opcodeForm_opcode {i : Instr} (h : i.wellFormed = true) : opcodeForm i.opcode = i.form := by
  cases i <;> dsimp only [Instr.opcode]
  case lxi rp _ | inx rp | dcx rp | dad rp => cases rp <;> rfl
  case ldax p | stax p => cases p <;> rfl
  case popRp rp | pushRp rp => cases rp <;> rfl
  case rcc cc | jcc cc _ | ccc cc _ => cases cc <;> rfl
  case movRR r1 r2 => cases r1 <;> cases r2 <;> rfl
  case inrR r | dcrR r | mviR r _ | movRM r | movMR r | addR r | adcR r | subR r | sbbR r | anaR r | xraR r | oraR r
      | cmpR r => cases r <;> rfl
  case rst n =>
    have hn : n < 8 := wellFormed_rst.1 h
    interval_cases n <;> rfl
  all_goals rfl

theorem form_encodes {i : Instr} (h : i.wellFormed = true) : i.form.Encodes i.opcode := by
  cases i
  case mviR | mviM | adi | aci | sui | sbi | ani | xri | ori | cpi | inP | outP | lxi | shld | lhld | sta | lda | jmp
      | jcc | call | ccc => exact fun _ => ⟨rfl, rfl⟩
  all_goals exact ⟨h, rfl⟩

/-- A check of the 256 opcode bytes: one operand stands for all, since `form_encodes` covers the others. -/
theorem opcode_of_mem_atZero :
    ∀ op : Byte, ∀ i ∈ (opcodeForm op).atZero, i.wellFormed = true ∧ i.opcode = op := by decide

/-- A check of the 256 opcode bytes against the lists of R73 and R84. -/
theorem formLength_opcodeForm :
    ∀ op : Byte, formLength (opcodeForm op) = if op ∈ unsupportedOpcodes then 0 else lengthOf op := by decide

theorem opcodeForm_encodes (op : Byte) : (opcodeForm op).Encodes op := by
  have of_atZero : ∀ i ∈ (opcodeForm op).atZero, (opcodeForm op).Encodes op := fun i hi => by
    obtain ⟨hwf, rfl⟩ := opcode_of_mem_atZero op i hi
    exact opcodeForm_opcode hwf ▸ form_encodes hwf
  cases hf : opcodeForm op with
  | one i => exact hf ▸ of_atZero i (by rw [hf]; rfl)
  | two k => exact hf ▸ of_atZero (k 0) (by rw [hf]; rfl)
  | three k => exact hf ▸ of_atZero (k 0) (by rw [hf]; rfl)
  | unsupported => trivial

theorem lengthOf_opcode {i : Instr} (h : i.wellFormed = true) : lengthOf i.opcode = i.length := by
  have hlen : i.length = if i.opcode ∈ unsupportedOpcodes then 0 else lengthOf i.opcode := by
    rw [← formLength_opcodeForm, opcodeForm_opcode h, formLength_form]
  have hpos : 0 < i.length := Nat.succ_pos _
  split at hlen <;> omega

theorem lengthOf_pos (op : Byte) : 0 < lengthOf op := by
  unfold lengthOf
  split_ifs <;> decide

/-! ### What the decoder answers (R82) -/

theorem decode_ok_of_length_le {op : Byte} {bs : List Byte} (hpos : 0 < formLength (opcodeForm op))
    (hle : formLength (opcodeForm op) ≤ bs.length + 1) : ∃ i rest, decode (op :: bs) = .ok i rest := by
  cases hf : opcodeForm op with rw [hf] at hpos hle
  | unsupported => cases hpos
  | one i => exact ⟨i, bs, by simp only [decode, hf]⟩
  | two k =>
    obtain ⟨d8, rest, rfl⟩ := List.exists_cons_of_length_pos (Nat.le_of_succ_le_succ hle)
    exact ⟨k d8, rest, by simp only [decode, hf]⟩
  | three k =>
    match bs, hle with
    | lo :: hi :: rest, _ => exact ⟨k (joinBytes hi lo), rest, by simp only [decode, hf]⟩

theorem decode_truncated_of_length_lt {op : Byte} {bs : List Byte}
    (hlt : bs.length + 1 < formLength (opcodeForm op)) : decode (op :: bs) = .truncated := by
  cases hf : opcodeForm op with rw [hf] at hlt
  | unsupported => cases hlt
  | one i => simp [formLength] at hlt
  | two k =>
    obtain rfl : bs = [] := List.eq_nil_of_length_eq_zero (by simp only [formLength] at hlt; omega)
    simp only [decode, hf]
  | three k =>
    match bs, hlt with
    | [], _ | [_], _ => simp only [decode, hf]
    | _ :: _ :: _, hlt => simp only [formLength, List.length_cons] at hlt; omega

theorem encode_append_of_decode {bs rest : List Byte} {i : Instr} (h : decode bs = .ok i rest) :
    i.wellFormed = true ∧ encode i ++ rest = bs := by
  cases bs with
  | nil => cases h
  | cons op bs =>
    have henc := opcodeForm_encodes op
    cases hf : opcodeForm op with (simp only [decode, hf] at h; rw [hf] at henc)
    | unsupported => cases h
    | one j =>
      cases h
      exact ⟨henc.1, by rw [henc.2]; rfl⟩
    | two k =>
      match bs, h with
      | d8 :: rest, rfl => exact ⟨(henc d8).1, by rw [(henc d8).2]; rfl⟩
    | three k =>
      match bs, h with
      | lo :: hi :: rest, rfl =>
        obtain ⟨hwf, hbytes⟩ := henc (joinBytes hi lo)
        exact ⟨hwf, by simp [hbytes, wordBytes]⟩

/-! ### Branching and sequential instructions by their opcodes (R91, R93) -/

theorem wellFormed_of_sequential {i : Instr} (h : branching i = false) : i.wellFormed = true := by
  cases i
  case rst => cases h
  all_goals rfl

theorem branchingOpcode_opcode {i : Instr} (hwf : i.wellFormed = true) (h : branching i = true) :
    branchingOpcode i.opcode = true := by
  cases i <;> dsimp only [Instr.opcode]
  case rcc cc | jcc cc _ | ccc cc _ => cases cc <;> rfl
  case rst n =>
    have hn : n < 8 := wellFormed_rst.1 hwf
    interval_cases n <;> rfl
  case jmp | call | ret | pchl => rfl
  all_goals cases h

theorem sequential_of_opcode {i : Instr} (hwf : i.wellFormed = true) (h : branchingOpcode i.opcode = false) :
    branching i = false :=
  Bool.eq_false_iff.2 fun hb => Bool.eq_false_iff.1 h (branchingOpcode_opcode hwf hb)

end Sys2Proof
end

/-! ### Where PC goes (30_encoding.md R90, R93) -/

section
namespace Sys2Proof.Machine

open Sys2Proof.Spec

/-! What the operations under the instructions do to PC: nothing. -/

@[simp] theorem setRegPair_pc (s : State) (rp : RegPair) (v : Word) : (s.setRegPair rp v).pc = s.pc := by
  cases rp <;> rfl

theorem write8_pc {s t : State} {a : Word} {v : Byte} (h : write8 a v s = .next t) : t.pc = s.pc := by
  obtain ⟨_, rfl⟩ := write8_next.1 h; rfl

theorem write16_pc {s t : State} {a v : Word} (h : write16 a v s = .next t) : t.pc = s.pc := by
  obtain ⟨_, _, rfl⟩ := write16_next.1 h; rfl

theorem push16_pc {s t : State} {v : Word} (h : push16 v s = .next t) : t.pc = s.pc := by
  obtain ⟨_, _, rfl⟩ := push16_next.1 h; rfl

theorem pop16_pc {s : State} {r : Word × State} (h : pop16 s = .next r) : r.2.pc = s.pc := by
  obtain ⟨_, _, rfl⟩ := pop16_next.1 h; rfl

theorem draw_pc (s : State) (port : Byte) : (s.draw port).2.pc = s.pc := by
  obtain ⟨_, _, _, h⟩ | ⟨_, h⟩ := draw_cases s port <;> rw [h]

theorem portIn_pc (port : Byte) (s : State) : (portIn port s).2.pc = s.pc := by
  simp only [portIn, emit_pc, inputCall]
  split
  · split
    · rfl
    · exact draw_pc s port
  · exact draw_pc s port

theorem portOut_pc (port v : Byte) (s : State) : (portOut port v s).pc = s.pc := by
  unfold portOut; split <;> rfl

/-- Where the result is a state, its PC is that of `s` moved by `len` (30_encoding.md R93). -/
def Advances (len : Nat) (s : State) (r : Res State) : Prop := ∀ t, r = .next t → t.pc = s.nextPc len

theorem advances_advance {s u : State} {len : Nat} (h : u.pc = s.pc) : Advances len s (.next (u.advance len)) := by
  rintro _ ⟨⟩
  rw [advance_pc, State.nextPc, h, State.nextPc]

theorem advances_andThen {α : Type} {s : State} {len : Nat} {r : Res α} {k : α → Res State}
    (h : ∀ v, r = .next v → Advances len s (k v)) : Advances len s (andThen r k) := fun t ht => by
  obtain ⟨v, hv, hk⟩ := andThen_next.1 ht
  exact h v hv t hk

theorem exec_advances {i : Instr} (s : State) (h : branching i = false) : Advances i.length s (exec i s) := by
  cases i
  case jmp | jcc | call | ccc | ret | rcc | pchl | rst => cases h
  case lxi | inx | dcx => exact advances_advance (setRegPair_pc ..)
  case inP => exact advances_advance (portIn_pc ..)
  case outP => exact advances_advance (portOut_pc ..)
  case movRM | addM | adcM | subM | sbbM | cmpM | anaM | xraM | oraM | lda | ldax | lhld =>
    exact advances_andThen fun _ _ => advances_advance rfl
  case inrM | dcrM =>
    exact advances_andThen fun _ _ => advances_andThen fun _ h => advances_advance ((setFlags_pc ..).trans (write8_pc h))
  case movMR | mviM | sta | stax => exact advances_andThen fun _ h => advances_advance (write8_pc h)
  case shld => exact advances_andThen fun _ h => advances_advance (write16_pc h)
  case pushRp | pushPsw => exact advances_andThen fun _ h => advances_advance (push16_pc h)
  case popRp | popPsw => exact advances_andThen fun _ h => advances_advance (pop16_pc h)
  case xthl =>
    exact advances_andThen fun _ _ => advances_andThen fun _ h => advances_advance ((setPair_pc ..).trans (write16_pc h))
  -- The rest are the register forms: no memory access, no port.
  all_goals exact advances_advance rfl

/-- What a fetch answers is well formed and has the byte at PC as its opcode. -/
theorem fetch_opcode {s : State} {i : Instr} (h : fetch s = .next i) :
    i.wellFormed = true ∧ i.opcode = byteAt s s.pc := by
  obtain ⟨op, hop, h⟩ := andThen_next.1 h
  obtain ⟨_, rfl⟩ := read8_next.1 hop
  have henc := opcodeForm_encodes (s.mem.read s.pc.toNat)
  cases hf : opcodeForm (s.mem.read s.pc.toNat) with rw [hf] at henc h
  | unsupported => cases h
  | one j =>
    cases h
    exact ⟨henc.1, (List.cons.inj henc.2).1⟩
  | two k =>
    obtain ⟨d8, _, ⟨⟩⟩ := andThen_next.1 h
    exact ⟨(henc d8).1, (List.cons.inj (henc d8).2).1⟩
  | three k =>
    obtain ⟨lo, _, h⟩ := andThen_next.1 h
    obtain ⟨hi, _, ⟨⟩⟩ := andThen_next.1 h
    exact ⟨(henc _).1, (List.cons.inj (henc _).2).1⟩

end Sys2Proof.Machine
end

section
namespace Sys2Proof.Proofs

open Sys2Proof.Machine Sys2Proof.Spec Sys2Proof.Laws.EncodedLength

/-- Settles O4: the form of the opcode decides between an instruction and `truncated`, and the bytes of what is decoded
are exactly the bytes consumed. -/
theorem lengthDependsOnOpcodeOnly : Obligations.LengthDependsOnOpcodeOnly := by
  intro op bs hop
  have hform : formLength (opcodeForm op) = lengthOf op := by rw [formLength_opcodeForm, if_neg hop]
  refine ⟨fun hle => ?enough, fun hlt => ?short⟩
  case enough =>
    obtain ⟨i, rest, hdec⟩ := decode_ok_of_length_le (hform ▸ lengthOf_pos op) (hform ▸ hle)
    obtain ⟨hwf, hbytes⟩ := encode_append_of_decode hdec
    obtain ⟨rfl, hrest⟩ : i.opcode = op ∧ i.operandBytes ++ rest = bs := List.cons.inj hbytes
    refine ⟨i, rest, hdec, (lengthOf_opcode hwf).symm, ?_⟩
    rw [lengthOf_opcode hwf, ← hrest, List.length_append]
    simp only [Instr.length, encode, List.length_cons]
    omega
  case short => exact decode_truncated_of_length_lt (hform ▸ hlt)

/-- Settles O53: a sequential `exec` ends in an advance by the instruction's length, and a Step runs an instruction whose
opcode is the byte at PC. -/
theorem sequentialPcAdvance : Obligations.SequentialPcAdvance := by
  have exec_pc : ∀ (i : Instr) (s t : State), branching i = false → exec i s = .next t →
      t.pc = s.pc + BitVec.ofNat 16 (lengthOf i.opcode) := fun i s t hseq hexec => by
    rw [lengthOf_opcode (wellFormed_of_sequential hseq)]
    exact exec_advances s hseq t hexec
  refine ⟨fun s t c hstep hseq => ?_, exec_pc⟩
  obtain ⟨_, i, u, hfetch, hexec, _, rfl⟩ := cpuStep_ok hstep
  obtain ⟨hwf, hop⟩ := fetch_opcode hfetch
  rw [← hop] at hseq ⊢
  exact exec_pc i s u (sequential_of_opcode hwf hseq) hexec

end Sys2Proof.Proofs
end

/-! ### How an instruction is encoded, fetched and run by a Step (20_memory.md R69; 30_encoding.md R71 to R78, R90) -/

section
namespace Sys2Proof.Machine

open Sys2Proof.Spec

/-! The bytes of an instruction by its format. -/

theorem code3_eq (n : Nat) (d16 : Word) : code3 n d16 = BitVec.ofNat 8 n :: wordBytes d16 := by
  rw [code3, ← loByte_toNat, ← hiByte_toNat, BitVec.ofNat_toNat, BitVec.ofNat_toNat, BitVec.setWidth_eq,
    BitVec.setWidth_eq, wordBytes]

/-- The three formats of R71: the form an instruction asks for is its constructor, and the operand it is applied to is
what follows the opcode. -/
inductive HasFormat (i : Instr) : Prop where
  | one (hform : i.form = .one i) (hbytes : encode i = [i.opcode])
  | two (k : Byte → Instr) (d8 : Byte) (hform : i.form = .two k) (happly : k d8 = i)
      (hbytes : encode i = [i.opcode, d8])
  | three (k : Word → Instr) (d16 : Word) (hform : i.form = .three k) (happly : k d16 = i)
      (hbytes : encode i = [i.opcode, loByte d16, hiByte d16])

theorem hasFormat (i : Instr) : HasFormat i := by
  cases i
  case mviR | mviM | adi | aci | sui | sbi | ani | xri | ori | cpi | inP | outP => exact .two _ _ rfl rfl rfl
  case lxi | shld | lhld | sta | lda | jmp | jcc | call | ccc => exact .three _ _ rfl rfl rfl
  all_goals exact .one rfl rfl

/-! Reading the bytes from PC on. -/

theorem read8_of_bytesAtPc {s : State} {bs : List Byte} {k : Nat} (h : BytesAtPc s bs k) (j : Nat) {b : Byte}
    (hj : j < k) (hb : bs[j]? = some b) : read8 s (s.pc + BitVec.ofNat 16 j) = .next b := by
  obtain ⟨hin, hbyte⟩ := h j hj
  rw [read8_of_lt hin, Option.some.inj (hb.symm.trans hbyte)]

theorem read8_of_not_inRange {s : State} {a : Word} (h : ¬InRange s a) : read8 s a = .fault (.memoryOutOfBounds a) :=
  read8_of_ge (Nat.le_of_not_lt h)

theorem write8_of_not_inRange {s : State} {a : Word} (v : Byte) (h : ¬InRange s a) :
    write8 a v s = .fault (.memoryOutOfBounds a) :=
  write8_of_ge v (Nat.le_of_not_lt h)

theorem read8_opcode_of_bytesAtPc {s : State} {i : Instr} {k : Nat} (h : BytesAtPc s (encode i) k) (hk : 0 < k) :
    read8 s s.pc = .next i.opcode := by
  simpa using read8_of_bytesAtPc h 0 hk rfl

/-- With all its bytes at PC, an instruction is fetched. -/
theorem fetch_of_bytesAtPc {s : State} {i : Instr} (hwf : i.wellFormed = true)
    (h : BytesAtPc s (encode i) (encode i).length) : fetch s = .next i := by
  have hop := read8_opcode_of_bytesAtPc h (Nat.succ_pos _)
  have hsel := opcodeForm_opcode hwf
  cases hasFormat i with
  | one hform _ => simp only [fetch, hop, andThen_ok, hsel, hform]
  | two k d8 hform happly hbytes =>
    rw [hbytes] at h
    have h1 : read8 s (s.pc + 1) = .next d8 := read8_of_bytesAtPc h 1 (by simp) rfl
    simp only [fetch, hop, andThen_ok, hsel, hform, h1, happly]
  | three k d16 hform happly hbytes =>
    rw [hbytes] at h
    have h1 : read8 s (s.pc + 1) = .next (loByte d16) := read8_of_bytesAtPc h 1 (by simp) rfl
    have h2 : read8 s (s.pc + 2) = .next (hiByte d16) := read8_of_bytesAtPc h 2 (by simp) rfl
    simp only [fetch, hop, andThen_ok, hsel, hform, h1, h2, joinBytes_bytes, happly]

/-- A fetch stops at the first byte of the instruction that lies outside the memory (R69). -/
theorem fetch_fault_of_bytesAtPc {s : State} {i : Instr} {k : Nat} (hwf : i.wellFormed = true)
    (hk : k < (encode i).length) (h : BytesAtPc s (encode i) k) (hout : ¬InRange s (s.pc + BitVec.ofNat 16 k)) :
    fetch s = .fault (.memoryOutOfBounds (s.pc + BitVec.ofNat 16 k)) := by
  have hstop := read8_of_not_inRange hout
  cases k with
  | zero =>
    rw [BitVec.add_zero] at hstop ⊢
    rw [fetch, hstop, andThen_stop]
  | succ k =>
    have hop := read8_opcode_of_bytesAtPc h (Nat.succ_pos _)
    have hsel := opcodeForm_opcode hwf
    cases hasFormat i with
    | one _ hbytes =>
      rw [hbytes] at hk
      exact absurd (Nat.lt_of_succ_lt_succ hk) (Nat.not_lt_zero k)
    | two _ _ hform _ hbytes =>
      rw [hbytes] at hk
      obtain rfl : k = 0 := Nat.lt_one_iff.1 (Nat.lt_of_succ_lt_succ hk)
      have hstop : read8 s (s.pc + 1) = _ := hstop
      simp only [fetch, hop, andThen_ok, hsel, hform, hstop, andThen_stop]
    | three _ d16 hform _ hbytes =>
      rw [hbytes] at hk h
      have hk2 : k < 2 := Nat.lt_of_succ_lt_succ hk
      interval_cases k
      · have hstop : read8 s (s.pc + 1) = _ := hstop
        simp only [fetch, hop, andThen_ok, hsel, hform, hstop, andThen_stop]
      · have h1 : read8 s (s.pc + 1) = .next (loByte d16) := read8_of_bytesAtPc h 1 (by decide) rfl
        have hstop : read8 s (s.pc + 2) = _ := hstop
        simp only [fetch, hop, andThen_ok, hsel, hform, h1, hstop, andThen_stop]

theorem cpuStep_of_fetch {s : State} {i : Instr} (hrun : s.halted = false) (h : fetch s = .next i) :
    cpuStep s = stepped (cycleCost s.cfg i s.flags) (exec i s) := by
  simp only [cpuStep, hrun, Bool.false_eq_true, if_false, h]
  cases exec i s <;> rfl

theorem cpuStep_of_fetch_fault {s : State} {f : Fault} (hrun : s.halted = false) (h : fetch s = .fault f) :
    cpuStep s = .fault f := by
  simp only [cpuStep, hrun, Bool.false_eq_true, if_false, h]

/-- Whatever a well-formed instruction's bytes are, a Step reads and runs them. -/
theorem encoded_of_encode {i : Instr} {bs : List Byte} (hwf : i.wellFormed = true) (hbytes : encode i = bs) :
    Encoded i bs := by
  subst hbytes
  exact ⟨rfl, fun _ _ hrun hk h hout => cpuStep_of_fetch_fault hrun (fetch_fault_of_bytesAtPc hwf hk h hout),
    fun _ hrun h => cpuStep_of_fetch hrun (fetch_of_bytesAtPc hwf h)⟩

theorem encoded_code3 {i : Instr} {n : Nat} {d16 : Word} (hwf : i.wellFormed = true)
    (hop : i.opcode = BitVec.ofNat 8 n) (hops : i.operandBytes = wordBytes d16) : Encoded i (code3 n d16) :=
  encoded_of_encode hwf (by rw [code3_eq, encode, hop, hops])

end Sys2Proof.Machine
end

/-! ### The frames of a register write and of a store, and a byte access outside the memory (20_memory.md R51, R52) -/

section
namespace Sys2Proof.Machine

open Sys2Proof.Spec

theorem sameRest_update (s : State) (regs : Regs) (flags : Flags) (pc sp : Word) (mem : Memory) :
    SameRest s { s with regs, flags, pc, sp, mem } :=
  ⟨rfl, rfl, rfl, rfl, rfl, rfl, rfl, rfl, rfl, rfl, rfl⟩

/-- A sequential instruction that writes the register file and the flags leaves everything else alone. -/
theorem registerForm_setRegs_setFlags {s : State} {ws : List Reg} (len : Nat) (x : Regs) (f : Flags)
    (h : SameRegsBut ws s (s.setRegs x)) : RegisterForm len ws s (((s.setRegs x).setFlags f).advance len) where
  pc := rfl
  sp := rfl
  regs := h
  mem := fun _ _ => rfl
  rest := sameRest_update ..

theorem sameRegsBut_trans {ws vs : List Reg} {s t u : State} (hst : SameRegsBut ws s t) (htu : SameRegsBut vs t u) :
    SameRegsBut (vs ++ ws) s u := fun q hq =>
  (htu q fun h => hq (List.mem_append_left ws h)).trans (hst q fun h => hq (List.mem_append_right vs h))

theorem sameRegsBut_setReg (s : State) (r : Reg) (v : Byte) : SameRegsBut [r] s (s.setReg r v) := fun _ hq =>
  get_set_other _ v (List.ne_of_not_mem_cons hq)

theorem sameRegsBut_setPair (s : State) (rp : Pair) (v : Word) :
    SameRegsBut [pairHi rp, pairLo rp] s (s.setPair rp v) := fun q hq => by
  have ⟨hhi, hlo⟩ : q ≠ pairHi rp ∧ q ≠ pairLo rp := by simpa using hq
  rw [setPair_reg, if_neg hlo, if_neg hhi]

theorem registerForm_setReg (s : State) (len : Nat) (r : Reg) (v : Byte) :
    RegisterForm len [r] s ((s.setReg r v).advance len) :=
  registerForm_setRegs_setFlags len _ s.flags (sameRegsBut_setReg s r v)

theorem registerForm_setPair (s : State) (len : Nat) (rp : Pair) (v : Word) :
    RegisterForm len [pairHi rp, pairLo rp] s ((s.setPair rp v).advance len) :=
  registerForm_setRegs_setFlags len _ s.flags (sameRegsBut_setPair s rp v)

theorem sameMemBut_stored {s : State} (hwf : s.mem.wf = true) (a : Word) (v : Byte) :
    SameMemBut [a] s (stored s a v) := fun _ hne =>
  read_write_other hwf v (hne a List.mem_cons_self)

theorem storeForm_stored {s : State} (hwf : s.mem.wf = true) (len : Nat) (a : Word) (v : Byte) :
    StoreForm len [a] s ((stored s a v).advance len) where
  pc := rfl
  sp := rfl
  regs := fun _ _ => rfl
  mem := sameMemBut_stored hwf a v
  rest := sameRest_update ..

theorem byteFault_read8 (s : State) (a : Word) (k : Byte → Res State) : ByteFault s a (andThen (read8 s a) k) :=
  fun h => by rw [read8_of_not_inRange h, andThen_stop]

theorem byteFault_write8 (s : State) (a : Word) (v : Byte) (k : State → Res State) :
    ByteFault s a (andThen (write8 a v s) k) := fun h => by rw [write8_of_not_inRange v h, andThen_stop]

end Sys2Proof.Machine
end

/-! ### The data-transfer group (40_data_transfer.md R100 to R107, R110 to R112) -/

section
namespace Sys2Proof.Machine

open Sys2Proof.Spec

/-- MOV r,M, LDA and LDAX differ in address, register and length only. -/
theorem load_byte {s : State} {i : Instr} {a : Word} {r : Reg} {len : Nat}
    (hexec : exec i s = andThen (read8 s a) fun v => .next ((s.setReg r v).advance len)) :
    (InRange s a → ∃ t, exec i s = .next t ∧ t.reg r = byteAt s a ∧ t.flags = s.flags ∧ RegisterForm len [r] s t) ∧
      ByteFault s a (exec i s) := by
  rw [hexec]
  refine ⟨fun h => ⟨(s.setReg r (byteAt s a)).advance len, ?_, ?_, rfl, registerForm_setReg ..⟩, byteFault_read8 s a _⟩
  · rw [read8_of_lt h, andThen_ok]
  · exact setReg_reg_same ..

/-- MOV M,r, MVI M, STA and STAX differ in address, value and length only. -/
theorem store_byte {s : State} {i : Instr} {a : Word} {v : Byte} {len : Nat} (hwf : s.mem.wf = true)
    (hexec : exec i s = andThen (write8 a v s) fun t => .next (t.advance len)) :
    (InRange s a → ∃ t, exec i s = .next t ∧ byteAt t a = v ∧ t.flags = s.flags ∧ StoreForm len [a] s t) ∧
      ByteFault s a (exec i s) := by
  rw [hexec]
  refine ⟨fun h => ⟨(stored s a v).advance len, ?_, ?_, rfl, storeForm_stored hwf ..⟩, byteFault_write8 s a v _⟩
  · rw [write8_of_lt v h, andThen_ok]
  · exact read_write_same hwf ..

/-- LXI with a pair operand: R22 splits the immediate over the two registers. -/
theorem load_pair {s : State} {i : Instr} {d16 : Word} (rp : Pair)
    (hexec : exec i s = .next ((s.setPair rp d16).advance 3)) :
    ∃ t, exec i s = .next t ∧ (t.reg (pairHi rp)).toNat = d16.toNat / 256 ∧
      (t.reg (pairLo rp)).toNat = d16.toNat % 256 ∧ t.flags = s.flags ∧
      RegisterForm 3 [pairHi rp, pairLo rp] s t := by
  refine ⟨_, hexec, ?hi, ?lo, rfl, registerForm_setPair ..⟩
  case hi => exact (congrArg _ (setPair_reg_pairHi ..)).trans (hiByte_toNat d16)
  case lo => exact (congrArg _ (setPair_reg_pairLo ..)).trans (loByte_toNat d16)

/-- Equal pairs have equal registers (R22). -/
theorem reg_eq_of_pair_eq {s t : State} {rp rq : Pair} (h : t.pair rp = s.pair rq) :
    t.reg (pairHi rp) = s.reg (pairHi rq) ∧ t.reg (pairLo rp) = s.reg (pairLo rq) := by
  rw [pair_eq_joinBytes, pair_eq_joinBytes] at h
  exact ⟨by simpa using congrArg hiByte h, by simpa using congrArg loByte h⟩

/-- The state with HL and DE exchanged, as XCHG writes them. -/
def exchanged (s : State) : State := (s.setPair .hl (s.pair .de)).setPair .de s.hl

theorem exec_xchg (s : State) : exec .xchg s = .next ((exchanged s).advance 1) := rfl

theorem exchanged_pair_de (s : State) : (exchanged s).pair .de = s.pair .hl := setPair_pair_same ..

theorem exchanged_pair_hl (s : State) : (exchanged s).pair .hl = s.pair .de :=
  (setPair_pair_other _ _ (by decide)).trans (setPair_pair_same ..)

theorem sameRegsBut_exchanged (s : State) : SameRegsBut [.d, .e, .h, .l] s (exchanged s) :=
  sameRegsBut_trans (sameRegsBut_setPair s .hl _) (sameRegsBut_setPair _ .de _)

end Sys2Proof.Machine
end

section
namespace Sys2Proof.Proofs

open Sys2Proof.Machine Sys2Proof.Spec

/-- Settles O15: both are one register write and an advance. -/
theorem registerMovesAndImmediates : Obligations.RegisterMovesAndImmediates := by
  refine ⟨fun r1 r2 => encoded_of_encode rfl ?movBytes, fun r _ => encoded_of_encode rfl ?mviBytes, fun s =>
    ⟨fun r1 r2 => ⟨_, rfl, setReg_reg_same .., rfl, registerForm_setReg ..⟩,
      fun r d8 => ⟨_, rfl, setReg_reg_same .., rfl, registerForm_setReg ..⟩⟩⟩
  case movBytes => cases r1 <;> cases r2 <;> rfl
  case mviBytes => cases r <;> rfl

/-- Settles O16: each is one `load_byte`. -/
theorem loadsReadTheirAddress : Obligations.LoadsReadTheirAddress := by
  refine ⟨fun r => encoded_of_encode rfl ?movBytes, fun _ => encoded_code3 rfl rfl rfl,
    fun p => encoded_of_encode rfl ?ldaxBytes, fun s =>
    ⟨fun _ => load_byte rfl, fun _ => load_byte rfl, fun _ => load_byte rfl, rfl, rfl⟩⟩
  case movBytes => cases r <;> rfl
  case ldaxBytes => cases p <;> rfl

/-- Settles O17: each is one `store_byte`. -/
theorem storesWriteTheirAddress : Obligations.StoresWriteTheirAddress := by
  refine ⟨fun r => encoded_of_encode rfl ?movBytes, fun _ => encoded_of_encode rfl rfl,
    fun _ => encoded_code3 rfl rfl rfl, fun p => encoded_of_encode rfl ?staxBytes, fun s hwf =>
    ⟨fun _ => store_byte hwf rfl, fun _ => store_byte hwf rfl, fun _ => store_byte hwf rfl,
      fun _ => store_byte hwf rfl⟩⟩
  case movBytes => cases r <;> rfl
  case staxBytes => cases p <;> rfl

/-- Settles O18: LXI is one pair write, or a write of SP; XCHG gives each of the two pairs the value of the other. -/
theorem pairLoadsAndExchange : Obligations.PairLoadsAndExchange := by
  refine ⟨fun rp _ => encoded_code3 rfl ?lxiOpcode rfl, encoded_of_encode rfl rfl, fun s =>
    ⟨fun d16 => ⟨load_pair .bc rfl, load_pair .de rfl, load_pair .hl rfl, ?lxiSp⟩, ?xchg⟩⟩
  case lxiOpcode => cases rp <;> rfl
  case lxiSp =>
    exact ⟨_, rfl, rfl, rfl, rfl, fun _ _ => rfl, fun _ _ => rfl, sameRest_update ..⟩
  case xchg =>
    obtain ⟨hd, he⟩ := reg_eq_of_pair_eq (exchanged_pair_de s)
    obtain ⟨hh, hl⟩ := reg_eq_of_pair_eq (exchanged_pair_hl s)
    exact ⟨_, exec_xchg s, hh, hl, hd, he, rfl,
      registerForm_setRegs_setFlags 1 _ s.flags (sameRegsBut_exchanged s)⟩

end Sys2Proof.Proofs
end

/-! ### The flags of a byte result (00_scope.md R13, 10_state.md R31, 41_arithmetic.md R120) -/

section
namespace Sys2Proof.Machine

open Sys2Proof.Spec

theorem countP_eq_sum_toNat {α : Type} (p : α → Bool) (l : List α) : l.countP p = (l.map fun x => (p x).toNat).sum := by
  induction l with
  | nil => rfl
  | cons x l ih =>
    rw [List.countP_cons, ih, List.map_cons, List.sum_cons, Nat.add_comm]
    cases p x <;> rfl

theorem setBits_eq_sum (r : Byte) : setBits r = ((List.range 8).map fun i => r.toNat / 2 ^ i % 2).sum := by
  simp only [setBits, countP_eq_sum_toNat, ← BitVec.testBit_toNat, Nat.toNat_testBit]

theorem parityEven_iff (r : Byte) : parityEven r = true ↔ EvenParity r := by
  rw [parityEven, beq_iff_eq, setBits_eq_sum, EvenParity]

theorem getLsbD_seven_iff (r : Byte) : r.getLsbD 7 = true ↔ 128 ≤ r.toNat := by
  rw [← BitVec.msb_eq_getLsbD_last r, BitVec.msb_eq_decide, decide_eq_true_iff]

/-- Whatever CY and AC are, S, Z and P written by `Flags.szp` are those of the result. -/
theorem szpOf_szp (f : Flags) (r : Byte) (ac cy : Bool) : SzpOf r { f.szp r with ac, cy } :=
  ⟨getLsbD_seven_iff r, beq_iff_eq.trans BitVec.toNat_inj.symm, parityEven_iff r⟩

theorem halfCarry_iff (a n r : Byte) : halfCarry a n r = true ↔ XorRule a n r := bne_iff_ne

theorem xorRule_iff_getLsbD (a n r : Byte) :
    XorRule a n r ↔ (a.getLsbD 4 ^^ n.getLsbD 4 ^^ r.getLsbD 4) = true := by
  rw [XorRule, show (0x10#8) = BitVec.twoPow 8 4 from rfl, BitVec.and_twoPow, BitVec.getLsbD_xor, BitVec.getLsbD_xor]
  split
  · next h => exact iff_of_true (by decide) h
  · next h => exact iff_of_false (fun hne => hne rfl) h

theorem ofNat_sum (a n : Byte) (cin : Bool) :
    BitVec.ofNat 8 (a.toNat + n.toNat + cin.toNat) = a + n + (BitVec.ofBool cin).setWidth 8 := by
  apply BitVec.eq_of_toNat_eq
  cases cin <;> simp

/-- The XOR rule finds the carry into bit 4, since bit 4 of a sum is the XOR of that carry and the operands' bits. -/
theorem xorRule_sum (a n : Byte) (cin : Bool) :
    XorRule a n (BitVec.ofNat 8 (a.toNat + n.toNat + cin.toNat)) ↔ a.toNat % 16 + n.toNat % 16 + cin.toNat > 15 := by
  have hcarry : (a.getLsbD 4 ^^ n.getLsbD 4 ^^ (a.getLsbD 4 ^^ (n.getLsbD 4 ^^ BitVec.carry 4 a n cin))) =
      BitVec.carry 4 a n cin := by
    cases a.getLsbD 4 <;> cases n.getLsbD 4 <;> simp
  rw [xorRule_iff_getLsbD, ofNat_sum, BitVec.getLsbD_add_add_bool (by decide), hcarry]
  exact decide_eq_true_iff

end Sys2Proof.Machine
end

/-! ### The arithmetic group (41_arithmetic.md R120, R123 to R128, R142 to R144) -/

section
namespace Sys2Proof.Machine

open Sys2Proof.Spec

/-- ADD, ADI, ADC and ACI differ in operand, carry in and length only. -/
theorem accumulatorAdd_addResult (s : State) (len : Nat) (n : Byte) (cin : Bool) :
    AddResult len n cin s ((accumulatorAdd n cin s).advance len) := by
  have ha : ((accumulatorAdd n cin s).advance len).reg .a =
      BitVec.ofNat 8 ((s.reg .a).toNat + n.toNat + cin.toNat) := setReg_reg_same s .a _
  have hac : ((accumulatorAdd n cin s).advance len).flags.ac = true ↔
      XorRule (s.reg .a) n (((accumulatorAdd n cin s).advance len).reg .a) := by
    rw [ha]; exact halfCarry_iff ..
  constructor
  case a => rw [ha, BitVec.toNat_ofNat]
  case szp => rw [ha]; exact szpOf_szp ..
  case cy => exact decide_eq_true_iff
  case acXor => exact hac
  case acNibble => rw [hac, ha, xorRule_sum]
  case form => exact registerForm_setRegs_setFlags len _ _ (sameRegsBut_setReg s .a _)

/-- An instruction that reads M and then completes, whatever is said of its result: `P` is told the byte at HL. -/
theorem read_operandM {s : State} {i : Instr} {u : Byte → State} {P : Byte → State → Prop}
    (hexec : exec i s = andThen (readM s) fun n => .next (u n)) (h : ∀ n, P n (u n)) :
    (InRange s s.hl → ∃ t, exec i s = .next t ∧ P (byteAt s s.hl) t) ∧ ByteFault s s.hl (exec i s) := by
  rw [hexec]
  exact ⟨fun hin => ⟨_, by rw [readM, read8_of_lt hin, andThen_ok], h _⟩, byteFault_read8 s s.hl _⟩

/-- INX and DCX of a pair are one write of that pair. -/
theorem update_pair {s : State} {i : Instr} {rp : Pair} {v : Word} {x : Nat}
    (hexec : exec i s = .next ((s.setPair rp v).advance 1)) (hv : v.toNat = x) :
    ∃ t, exec i s = .next t ∧ (t.pair rp).toNat = x ∧ t.flags = s.flags ∧
      RegisterForm 1 [pairHi rp, pairLo rp] s t :=
  ⟨_, hexec, (congrArg BitVec.toNat (setPair_pair_same ..)).trans hv, rfl, registerForm_setPair ..⟩

/-- INX and DCX of SP are one write of SP. -/
theorem update_sp {s : State} {i : Instr} {v : Word} {x : Nat}
    (hexec : exec i s = .next ((s.setSp v).advance 1)) (hv : v.toNat = x) :
    ∃ t, exec i s = .next t ∧ t.sp.toNat = x ∧ t.pc = s.pc + 1 ∧ t.flags = s.flags ∧ SameRegsBut [] s t ∧
      SameMemBut [] s t ∧ SameRest s t :=
  ⟨_, hexec, hv, rfl, rfl, fun _ _ => rfl, fun _ _ => rfl, sameRest_update ..⟩

theorem toNat_sub_one (v : Word) : (v - 1).toNat = (v.toNat + 65535) % 65536 := by
  rw [Nat.add_comm]
  exact BitVec.toNat_sub ..

end Sys2Proof.Machine
end

section
namespace Sys2Proof.Proofs

open Sys2Proof.Machine Sys2Proof.Spec

/-- Settles O21: every form is `accumulatorAdd` and an advance, and the M forms read the byte at HL first. -/
theorem additionsGiveSumAndFlags : Obligations.AdditionsGiveSumAndFlags := by
  refine ⟨fun r => encoded_of_encode rfl ?addBytes, encoded_of_encode rfl rfl, fun _ => encoded_of_encode rfl rfl,
    fun r => encoded_of_encode rfl ?adcBytes, encoded_of_encode rfl rfl, fun _ => encoded_of_encode rfl rfl, fun s => ?_⟩
  case addBytes => cases r <;> rfl
  case adcBytes => cases r <;> rfl
  have hresult := accumulatorAdd_addResult s
  obtain ⟨haddM, haddFault⟩ := read_operandM (s := s) (i := .addM) rfl fun n => hresult 1 n false
  obtain ⟨hadcM, hadcFault⟩ := read_operandM (s := s) (i := .adcM) rfl fun n => hresult 1 n s.flags.cy
  exact ⟨fun _ => ⟨_, rfl, hresult ..⟩, fun _ => ⟨_, rfl, hresult ..⟩, fun _ => ⟨_, rfl, hresult ..⟩,
    fun _ => ⟨_, rfl, hresult ..⟩, haddM, haddFault, hadcM, hadcFault⟩

/-- Settles O25: both are one write of the pair or of SP, and an advance. -/
theorem pairIncrementsTouchNoFlag : Obligations.PairIncrementsTouchNoFlag := by
  refine ⟨fun rp => encoded_of_encode rfl ?inxBytes, fun rp => encoded_of_encode rfl ?dcxBytes, fun s =>
    ⟨?pairs, update_sp rfl (BitVec.toNat_add ..), update_sp rfl (toNat_sub_one s.sp)⟩⟩
  case inxBytes => cases rp <;> rfl
  case dcxBytes => cases rp <;> rfl
  case pairs =>
    rintro rp q (⟨rfl, rfl⟩ | ⟨rfl, rfl⟩ | ⟨rfl, rfl⟩) <;>
      exact ⟨update_pair rfl (BitVec.toNat_add ..), update_pair rfl (toNat_sub_one _)⟩

/-- Settles O26: DAD is one write of HL, with the 16-bit overflow of the exact sum in CY. -/
theorem dadAddsToHl : Obligations.DadAddsToHl := by
  refine ⟨fun rp => encoded_of_encode rfl ?bytes, fun s q =>
    ⟨_, rfl, ?sum, ⟨decide_eq_true_iff, rfl, rfl, rfl, rfl⟩,
      registerForm_setRegs_setFlags 1 _ _ (sameRegsBut_setPair s .hl _), rfl, rfl, rfl, rfl⟩⟩
  case bytes => cases rp <;> rfl
  case sum => exact (congrArg BitVec.toNat (setPair_pair_same s _ .hl)).trans (BitVec.toNat_ofNat ..)

end Sys2Proof.Proofs
end

/-! ### Rotates, complement and carry (42_logical_rotate.md R170 to R176) -/

section
namespace Sys2Proof.Machine

open Sys2Proof.Spec

theorem toNat_getLsbD (a : Byte) (i : Nat) : (a.getLsbD i).toNat = a.toNat / 2 ^ i % 2 := by
  rw [← BitVec.testBit_toNat, Nat.toNat_testBit]

theorem toNat_getLsbD_zero (a : Byte) : (a.getLsbD 0).toNat = a.toNat % 2 := by
  rw [toNat_getLsbD, pow_zero, Nat.div_one]

theorem toNat_getLsbD_seven (a : Byte) : (a.getLsbD 7).toNat = a.toNat / 128 := by
  rw [toNat_getLsbD]
  exact Nat.mod_eq_of_lt (Nat.div_lt_of_lt_mul a.isLt)

theorem getLsbD_zero_iff (a : Byte) : a.getLsbD 0 = true ↔ a.toNat % 2 = 1 := by
  rw [← toNat_getLsbD_zero, Bool.toNat_eq_one]

theorem getLsbD_seven_iff_div (a : Byte) : a.getLsbD 7 = true ↔ a.toNat / 128 = 1 := by
  rw [← toNat_getLsbD_seven, Bool.toNat_eq_one]

/-- The seven bits that stay lie above bit 0, so the bit that enters is added to them. -/
theorem shiftInLow_toNat (a : Byte) (bit : Bool) : (shiftInLow a bit).toNat = 2 * a.toNat % 256 + bit.toNat := by
  have hstay : (a <<< 1).toNat = 2 ^ 1 * (a.toNat % 128) := by
    rw [BitVec.toNat_shiftLeft, Nat.shiftLeft_eq, Nat.mul_comm]
    exact Nat.mul_mod_mul_left 2 a.toNat 128
  have henter : (bitAt 0 bit).toNat = bit.toNat := by cases bit <;> rfl
  rw [shiftInLow, BitVec.toNat_or, hstay, henter, ← Nat.two_pow_add_eq_or_of_lt bit.toNat_lt]
  omega

/-- The seven bits that stay lie below bit 7, so the bit that enters is added to them. -/
theorem shiftInHigh_toNat (a : Byte) (bit : Bool) : (shiftInHigh a bit).toNat = a.toNat / 2 + 128 * bit.toNat := by
  have hstay : (a >>> 1).toNat = a.toNat / 2 := by rw [BitVec.toNat_ushiftRight, Nat.shiftRight_one]
  have henter : (bitAt 7 bit).toNat = 2 ^ 7 * bit.toNat := by cases bit <;> rfl
  rw [shiftInHigh, BitVec.toNat_or, hstay, henter, Nat.lor_comm,
    ← Nat.two_pow_add_eq_or_of_lt (Nat.div_lt_of_lt_mul a.isLt), Nat.add_comm]

theorem toNat_xor_ones (a : Byte) : (a ^^^ 0xFF#8).toNat = 255 - a.toNat :=
  (congrArg BitVec.toNat BitVec.xor_allOnes).trans BitVec.toNat_not

/-- RLC, RRC, RAL and RAR differ in the byte they write to A and in the bit they write to CY only. -/
theorem rotate_result {s : State} {i : Instr} {v : Byte} {cy : Bool} {x : Nat} {c : Prop}
    (hexec : exec i s = .next ((rotated v cy s).advance 1)) (hv : v.toNat = x) (hcy : cy = true ↔ c) :
    ∃ t, exec i s = .next t ∧ (t.reg .a).toNat = x ∧ OnlyCy c s t ∧ RegisterForm 1 [.a] s t :=
  ⟨_, hexec, hv, ⟨hcy, rfl, rfl, rfl, rfl⟩, registerForm_setRegs_setFlags 1 _ _ (sameRegsBut_setReg s .a v)⟩

/-- STC and CMC differ in the bit they write to CY only. -/
theorem carry_result {s : State} {i : Instr} {cy : Bool} {c : Prop}
    (hexec : exec i s = .next ((s.setFlags { s.flags with cy }).advance 1)) (hcy : cy = true ↔ c) :
    ∃ t, exec i s = .next t ∧ OnlyCy c s t ∧ RegisterForm 1 [] s t :=
  ⟨_, hexec, ⟨hcy, rfl, rfl, rfl, rfl⟩, registerForm_setRegs_setFlags 1 s.regs _ fun _ _ => rfl⟩

end Sys2Proof.Machine
end

section
namespace Sys2Proof.Proofs

open Sys2Proof.Machine Sys2Proof.Spec

/-- Settles O30: each is one `rotate_result`; RLC and RRC bring in the bit that leaves, RAL and RAR the old CY. -/
theorem rotatesWriteAccumulatorAndCarry : Obligations.RotatesWriteAccumulatorAndCarry := by
  refine ⟨encoded_of_encode rfl rfl, encoded_of_encode rfl rfl, encoded_of_encode rfl rfl, encoded_of_encode rfl rfl,
    fun s => ⟨rotate_result rfl ?rlc (getLsbD_seven_iff_div _), rotate_result rfl ?rrc (getLsbD_zero_iff _),
      rotate_result rfl (shiftInLow_toNat ..) (getLsbD_seven_iff_div _),
      rotate_result rfl (shiftInHigh_toNat ..) (getLsbD_zero_iff _)⟩⟩
  case rlc => rw [shiftInLow_toNat, toNat_getLsbD_seven]
  case rrc => rw [shiftInHigh_toNat, toNat_getLsbD_zero]

/-- Settles O32: CMA is one write of A with the XOR of R174, STC and CMC are each one `carry_result`. -/
theorem complementAndCarryInstructions : Obligations.ComplementAndCarryInstructions :=
  ⟨encoded_of_encode rfl rfl, encoded_of_encode rfl rfl, encoded_of_encode rfl rfl, fun _ =>
    ⟨⟨_, rfl, toNat_xor_ones _, rfl, registerForm_setReg ..⟩, carry_result rfl (iff_of_true rfl trivial),
      carry_result rfl (Bool.not_eq_true' _).to_iff⟩⟩

end Sys2Proof.Proofs
end

/-! ### Conditions and jumps (43_branch.md R180 to R183, R189) -/

section
namespace Sys2Proof.Machine

open Sys2Proof.Spec

/-- The model's test of a condition is the flag and the polarity of R181. -/
theorem condHolds_iff (cc : Cond) (f : Flags) : condHolds cc f = true ↔ CondTrue cc f := by
  cases cc with
  | z | c | pe | m => exact Iff.rfl
  | nz | nc | po | p => exact (Bool.not_eq_true' _).to_iff

theorem jumpForm_setPc (s : State) (v : Word) : JumpForm v s (s.setPc v) where
  branch := ⟨rfl, fun _ _ => rfl, rfl, sameRest_update ..⟩
  sp := rfl
  mem := fun _ _ => rfl

theorem exec_jcc_taken {s : State} {cc : Cond} (a16 : Word) (h : CondTrue cc s.flags) :
    exec (.jcc cc a16) s = .next (s.setPc a16) := if_pos ((condHolds_iff cc _).2 h)

theorem exec_jcc_not_taken {s : State} {cc : Cond} (a16 : Word) (h : ¬CondTrue cc s.flags) :
    exec (.jcc cc a16) s = .next (s.setPc (s.pc + 3)) := if_neg (mt (condHolds_iff cc _).1 h)

end Sys2Proof.Machine
end

section
namespace Sys2Proof.Proofs

open Sys2Proof.Machine Sys2Proof.Spec

/-- Settles O33: every form, a conditional jump taken or not, is one write of PC. -/
theorem jumpsWriteOnlyPc : Obligations.JumpsWriteOnlyPc := by
  refine ⟨fun _ => encoded_code3 rfl rfl rfl, fun cc _ => encoded_code3 rfl ?jccOpcode rfl, encoded_of_encode rfl rfl,
    fun s => ⟨fun a16 => ⟨_, rfl, jumpForm_setPc s a16⟩, fun _ a16 => ⟨fun h => ?taken, fun h => ?notTaken⟩,
      ⟨_, rfl, jumpForm_setPc s s.hl⟩⟩⟩
  case jccOpcode => cases cc <;> rfl
  case taken => exact ⟨_, exec_jcc_taken a16 h, jumpForm_setPc s a16⟩
  case notTaken => exact ⟨_, exec_jcc_not_taken a16 h, jumpForm_setPc s _⟩

end Sys2Proof.Proofs
end

/-! ### Decoding and encoding undo each other (30_encoding.md R71, R80 to R84) -/

section
namespace Sys2Proof

open Sys2Proof.Machine Sys2Proof.Spec Sys2Proof.Laws.EncodedLength

theorem decode_encode_append {i : Instr} (rest : List Byte) (hwf : i.wellFormed = true) :
    decode (encode i ++ rest) = .ok i rest := by
  have hsel := opcodeForm_opcode hwf
  cases hasFormat i with
  | one hform hbytes => simp [hbytes, decode, hsel, hform]
  | two k d8 hform happly hbytes => simp [hbytes, decode, hsel, hform, happly]
  | three k d16 hform happly hbytes => simp [hbytes, decode, hsel, hform, happly]

theorem opcodeForm_eq_unsupported_iff (op : Byte) : opcodeForm op = .unsupported ↔ op ∈ unsupportedOpcodes := by
  have hzero : formLength (opcodeForm op) = 0 ↔ op ∈ unsupportedOpcodes := by
    rw [formLength_opcodeForm]
    split
    · next h => exact iff_of_true rfl h
    · next h => exact iff_of_false (lengthOf_pos op).ne' h
  rw [← hzero]
  cases opcodeForm op <;> simp [formLength]

theorem decode_eq_unsupported_iff (op : Byte) (bs : List Byte) :
    decode (op :: bs) = .unsupported op ↔ opcodeForm op = .unsupported := by
  cases hf : opcodeForm op with
  | unsupported => simp [decode, hf]
  | one i => simp [decode, hf]
  | two k => cases bs <;> simp [decode, hf]
  | three k =>
    match bs with
    | [] | [_] | _ :: _ :: _ => simp [decode, hf]

end Sys2Proof
end

section
namespace Sys2Proof.Proofs

/-- Settles O5: the opcode selects the instruction's own form, and the operand bytes join to its operand. -/
theorem decodeOfEncodeIsIdentity : Obligations.DecodeOfEncodeIsIdentity := fun _ rest hwf =>
  decode_encode_append rest hwf

/-- Settles O6: every form makes well-formed instructions whose bytes are the opcode and the operand
(`opcodeForm_encodes`). -/
theorem encodeOfDecodeIsIdentity : Obligations.EncodeOfDecodeIsIdentity := fun _ _ _ hdec =>
  encode_append_of_decode hdec

/-- Settles O3: the decoder answers `unsupported` by the form of the opcode alone, and the forms agree with R84. -/
theorem unsupportedOpcodesAreTheTwelve : Obligations.UnsupportedOpcodesAreTheTwelve := fun op bs =>
  (decode_eq_unsupported_iff op bs).trans (opcodeForm_eq_unsupported_iff op)

/-- Settles O2: the decoder evaluated on each word. -/
theorem writtenWordsDecode : Obligations.WrittenWordsDecode :=
  ⟨rfl, rfl, rfl, rfl, rfl, rfl, rfl, rfl, rfl, rfl, rfl, rfl, rfl, rfl, rfl, rfl⟩

end Sys2Proof.Proofs
end

/-! ### What an instruction can do, said once: it completes inside its frame, or reports an address outside the memory
(10_state.md R21, R27, R30, R36, R37; 20_memory.md R51, R58; 60_exceptions.md R221) -/

section
namespace Sys2Proof.Machine

open Sys2Proof.Spec

/-- What an operation on a memory of `n` bytes answers: a value with the property `P`, or the fault of an address outside
the memory. -/
inductive Completes {α : Type} (n : Nat) (P : α → Prop) : Res α → Prop where
  | next (v : α) (h : P v) : Completes n P (.next v)
  | outside (a : Word) (h : n ≤ a.toNat) : Completes n P (.fault (.memoryOutOfBounds a))

theorem completes_andThen {α β : Type} {n : Nat} {P : α → Prop} {Q : β → Prop} {r : Res α} {k : α → Res β}
    (hr : Completes n P r) (hk : ∀ v, P v → Completes n Q (k v)) : Completes n Q (andThen r k) := by
  cases hr with
  | next v h => exact hk v h
  | outside a h => exact .outside a h

theorem completes_mono {α : Type} {n : Nat} {P Q : α → Prop} {r : Res α} (h : Completes n P r) (hPQ : ∀ v, P v → Q v) :
    Completes n Q r := by
  cases h with
  | next v h => exact .next v (hPQ v h)
  | outside a h => exact .outside a h

theorem completes_next {α : Type} {n : Nat} {P : α → Prop} {r : Res α} {v : α} (h : Completes n P r)
    (hv : r = .next v) : P v := by
  cases h with
  | next w h => cases hv; exact h
  | outside a h => cases hv

/-- The fault of an access outside a memory of `n` bytes (60_exceptions.md R221). -/
def OutsideFault (n : Nat) (f : Fault) : Prop := ∃ a : Word, f = .memoryOutOfBounds a ∧ n ≤ a.toNat

theorem completes_fault {α : Type} {n : Nat} {P : α → Prop} {r : Res α} {f : Fault} (h : Completes n P r)
    (hf : r = .fault f) : OutsideFault n f := by
  cases h with
  | next v h => cases hf
  | outside a h => cases hf; exact ⟨a, rfl, h⟩

theorem completes_ne_refused {α : Type} {n : Nat} {P : α → Prop} {r : Res α} (h : Completes n P r) (x : Refusal) :
    r ≠ .refused x := by
  cases h <;> nofun

/-! Every address is inside a memory of 65536 bytes. -/

theorem not_outsideFault_of_full {n : Nat} {f : Fault} (hn : 65536 ≤ n) : ¬OutsideFault n f := fun ⟨a, _, ha⟩ =>
  absurd (Nat.le_trans hn ha) (Nat.not_le_of_lt a.isLt)

theorem completes_full {α : Type} {n : Nat} {P : α → Prop} {r : Res α} (h : Completes n P r) (hn : 65536 ≤ n) :
    ∃ v, r = .next v := by
  cases h with
  | next v h => exact ⟨v, rfl⟩
  | outside a h => exact absurd (Nat.le_trans hn h) (Nat.not_le_of_lt a.isLt)

/-! The operations on memory and on the stack. -/

theorem completes_read8 (s : State) (a : Word) : Completes s.cfg.memSize (fun _ => InRange s a) (read8 s a) := by
  by_cases h : InRange s a
  · rw [read8_of_lt h]; exact .next _ h
  · rw [read8_of_not_inRange h]; exact .outside a (Nat.le_of_not_lt h)

theorem completes_write8 (s : State) (a : Word) (v : Byte) :
    Completes s.cfg.memSize (fun t => InRange s a ∧ t = stored s a v) (write8 a v s) := by
  by_cases h : InRange s a
  · rw [write8_of_lt v h]; exact .next _ ⟨h, rfl⟩
  · rw [write8_of_not_inRange v h]; exact .outside a (Nat.le_of_not_lt h)

theorem completes_read16 (s : State) (a : Word) : Completes s.cfg.memSize (fun _ => WordInRange s a) (read16 s a) :=
  completes_andThen (completes_read8 s a) fun _ hlo =>
    completes_andThen (completes_read8 s (a + 1)) fun _ hhi => .next _ ⟨hlo, hhi⟩

theorem completes_write16 (s : State) (a v : Word) :
    Completes s.cfg.memSize (fun t => WordInRange s a ∧ t = stored (stored s a (loByte v)) (a + 1) (hiByte v))
      (write16 a v s) :=
  completes_andThen (completes_write8 s a _) fun _ ⟨hlo, ht⟩ => by
    subst ht
    exact completes_mono (completes_write8 (stored s a (loByte v)) _ _) fun _ ⟨hhi, ht⟩ => ⟨⟨hlo, hhi⟩, ht⟩

theorem completes_push16 (s : State) (v : Word) :
    Completes s.cfg.memSize (fun t => CanPush s ∧ t = pushed s v) (push16 v s) :=
  completes_andThen (completes_write8 s _ _) fun _ ⟨hhi, ht⟩ => by
    subst ht
    exact completes_andThen (completes_write8 (stored s _ _) _ _) fun _ ⟨hlo, ht⟩ => by
      subst ht
      exact .next _ ⟨⟨hhi, hlo⟩, rfl⟩

theorem completes_pop16 (s : State) :
    Completes s.cfg.memSize (fun r => WordInRange s s.sp ∧ r.2 = s.setSp (s.sp + 2)) (pop16 s) :=
  completes_andThen (completes_read16 s s.sp) fun _ h => .next _ ⟨h, rfl⟩

theorem completes_interrupt (s : State) (vec : Word) :
    Completes s.cfg.memSize (fun _ => True) (interrupt vec s) := by
  unfold interrupt
  split
  · exact completes_andThen (completes_push16 (s.setHalted false) _) fun _ _ => .next _ trivial
  · exact .next _ trivial

/-! The frame of an instruction. -/

/-- The memory `m'` comes from `m` by writes to the addresses `as`, all of them inside a memory of `n` bytes. -/
inductive Stores (n : Nat) (as : List Word) (m : Memory) : Memory → Prop where
  | refl : Stores n as m m
  | write {m' : Memory} (a : Word) (v : Byte) (h : Stores n as m m') (ha : a ∈ as) (hn : a.toNat < n) :
      Stores n as m (m'.write a.toNat v)

theorem stores_wf {n : Nat} {as : List Word} {m m' : Memory} (h : Stores n as m m') (hwf : m.wf = true) :
    m'.wf = true := by
  induction h with
  | refl => exact hwf
  | write a v _ _ _ ih => exact wf_write ih _ v

theorem stores_within {n : Nat} {as : List Word} {m m' : Memory} (h : Stores n as m m')
    (hin : m.within n = true) : m'.within n = true := by
  induction h with
  | refl => exact hin
  | write a v _ _ hn ih => exact within_write ih hn v

theorem stores_read {n : Nat} {as : List Word} {m m' : Memory} (h : Stores n as m m') (hwf : m.wf = true) {x : Nat}
    (hx : ∀ a ∈ as, x ≠ a.toNat) : m'.read x = m.read x := by
  induction h with
  | refl => rfl
  | write a v h ha _ ih => rw [read_write_other (stores_wf h hwf) v (hx a ha), ih]

theorem stores_one {s : State} {a : Word} (v : Byte) (h : InRange s a) :
    Stores s.cfg.memSize [a] s.mem (stored s a v).mem := .write a v .refl List.mem_cons_self h

theorem stores_word {s : State} {a : Word} (v : Word) (h : WordInRange s a) :
    Stores s.cfg.memSize [a, a + 1] s.mem (stored (stored s a (loByte v)) (a + 1) (hiByte v)).mem :=
  .write _ _ (.write _ _ .refl List.mem_cons_self h.1) (List.mem_cons_of_mem _ List.mem_cons_self) h.2

theorem stores_pushed {s : State} (v : Word) (h : CanPush s) :
    Stores s.cfg.memSize [s.sp - 1, s.sp - 2] s.mem (pushed s v).mem :=
  .write _ _ (.write _ _ .refl List.mem_cons_self h.1) (List.mem_cons_of_mem _ List.mem_cons_self) h.2

/-- The flags outside `w` are the same in `f` and `g`. -/
def FlagsKept (w f g : Flags) : Prop :=
  (w.s = false → g.s = f.s) ∧ (w.z = false → g.z = f.z) ∧ (w.ac = false → g.ac = f.ac) ∧ (w.p = false → g.p = f.p) ∧
    (w.cy = false → g.cy = f.cy)

theorem flagsKept_refl (w f : Flags) : FlagsKept w f f :=
  ⟨fun _ => rfl, fun _ => rfl, fun _ => rfl, fun _ => rfl, fun _ => rfl⟩

theorem flagsKept_all (f g : Flags) : FlagsKept ⟨true, true, true, true, true⟩ f g := ⟨nofun, nofun, nofun, nofun, nofun⟩

theorem flagsKept_cy (f : Flags) (cy : Bool) : FlagsKept ⟨false, false, false, false, true⟩ f { f with cy } :=
  ⟨fun _ => rfl, fun _ => rfl, fun _ => rfl, fun _ => rfl, nofun⟩

theorem flagsKept_szp (f : Flags) (r : Byte) (ac : Bool) :
    FlagsKept ⟨true, true, true, true, false⟩ f { f.szp r with ac } := ⟨nofun, nofun, nofun, nofun, fun _ => rfl⟩

/-- The state outside registers, flags, PC, SP and memory changes by the instruction named for it only. -/
structure RestKept (i : Instr) (s t : State) : Prop where
  ie : i ≠ .ei → i ≠ .di → t.ie = s.ie
  halted : i ≠ .hlt → t.halted = s.halted
  dev : (∀ p, i ≠ .outP p) → t.dev = s.dev
  draws : (∀ p, i ≠ .inP p) → t.inputs = s.inputs ∧ t.draws = s.draws
  events : (∀ p, i ≠ .inP p) → (∀ p, i ≠ .outP p) → t.events = s.events
  cyc : t.cyc = s.cyc
  fc : t.fc = s.fc
  nextVec : t.nextVec = s.nextVec
  half : t.half = s.half
  cfg : t.cfg = s.cfg

theorem restKept_of_sameRest (i : Instr) {s t : State} (h : SameRest s t) : RestKept i s t where
  ie _ _ := h.ie
  halted _ := h.halted
  dev _ := h.dev
  draws _ := ⟨h.inputs, h.draws⟩
  events _ _ := h.events
  cyc := h.cyc
  fc := h.fc
  nextVec := h.nextVec
  half := h.half
  cfg := h.cfg

/-- What the instruction `i` may change between `s` and `t`. -/
structure Frame (i : Instr) (s t : State) : Prop where
  regs : SameRegsBut (writtenRegs i) s t
  sp : mayWriteSp i = false → t.sp = s.sp
  flags : FlagsKept (writtenFlags i) s.flags t.flags
  mem : Stores s.cfg.memSize (storeAddresses s i) s.mem t.mem
  rest : RestKept i s t
  record : ∃ e, t.events = s.events ++ e

theorem frame_update {i : Instr} {s : State} {regs : Regs} {flags : Flags} {pc sp : Word} {mem : Memory}
    (hregs : SameRegsBut (writtenRegs i) s (s.setRegs regs)) (hflags : FlagsKept (writtenFlags i) s.flags flags)
    (hsp : mayWriteSp i = false → sp = s.sp) (hmem : Stores s.cfg.memSize (storeAddresses s i) s.mem mem) :
    Frame i s { s with regs, flags, pc, sp, mem } where
  regs := hregs
  sp := hsp
  flags := hflags
  mem := hmem
  rest := restKept_of_sameRest i (sameRest_update ..)
  record := ⟨[], (List.append_nil _).symm⟩

/-- A sequential instruction that writes registers and flags only. -/
theorem frame_registers {i : Instr} {s : State} {regs : Regs} {flags : Flags} (len : Nat)
    (hregs : SameRegsBut (writtenRegs i) s (s.setRegs regs)) (hflags : FlagsKept (writtenFlags i) s.flags flags) :
    Frame i s (((s.setRegs regs).setFlags flags).advance len) :=
  frame_update hregs hflags (fun _ => rfl) .refl

theorem frame_setReg_setFlags {i : Instr} {s : State} (r : Reg) (v : Byte) {flags : Flags} (len : Nat)
    (hregs : writtenRegs i = [r]) (hflags : FlagsKept (writtenFlags i) s.flags flags) :
    Frame i s (((s.setReg r v).setFlags flags).advance len) :=
  frame_registers len (hregs ▸ sameRegsBut_setReg s r v) hflags

theorem frame_setReg {i : Instr} {s : State} (r : Reg) (v : Byte) (len : Nat) (hregs : writtenRegs i = [r]) :
    Frame i s ((s.setReg r v).advance len) :=
  frame_setReg_setFlags r v len hregs (flagsKept_refl _ s.flags)

theorem frame_setPair {i : Instr} {s : State} (rp : Pair) (v : Word) (len : Nat)
    (hregs : writtenRegs i = [pairHi rp, pairLo rp]) : Frame i s ((s.setPair rp v).advance len) :=
  frame_registers len (hregs ▸ sameRegsBut_setPair s rp v) (flagsKept_refl _ s.flags)

/-- LXI, INX and DCX. -/
theorem frame_setRegPair {i : Instr} {s : State} (rp : RegPair) (v : Word) (len : Nat)
    (hregs : writtenRegs i = regPairRegs rp) (hsp : mayWriteSp i = (rp == .sp)) :
    Frame i s ((s.setRegPair rp v).advance len) := by
  cases rp with
  | bc => exact frame_setPair .bc v len hregs
  | de => exact frame_setPair .de v len hregs
  | hl => exact frame_setPair .hl v len hregs
  | sp => exact frame_update (fun _ _ => rfl) (flagsKept_refl ..) (fun h => absurd (hsp.symm.trans h) nofun) .refl

/-- An instruction that writes memory, flags and PC only, and SP where it may. -/
theorem frame_stores {i : Instr} {s : State} {flags : Flags} {pc sp : Word} {mem : Memory}
    (hflags : FlagsKept (writtenFlags i) s.flags flags) (hsp : mayWriteSp i = false → sp = s.sp)
    (hmem : Stores s.cfg.memSize (storeAddresses s i) s.mem mem) :
    Frame i s { s with flags, pc, sp, mem } :=
  frame_update (fun _ _ => rfl) hflags hsp hmem

theorem frame_jump (i : Instr) (s : State) (pc : Word) : Frame i s (s.setPc pc) :=
  frame_stores (flagsKept_refl ..) (fun _ => rfl) .refl

/-- What `INPUT` returns comes from the devices or from a draw, and only a draw changes the state (R245, R246). -/
theorem inputCall_update (port : Byte) (s : State) : ∃ inputs draws, (inputCall port s).2 = { s with inputs, draws } := by
  have hdraw : ∃ inputs draws, (s.draw port).2 = { s with inputs, draws } := by
    obtain ⟨v, rest, -, h⟩ | ⟨-, h⟩ := draw_cases s port
    · exact ⟨rest, s.draws, by rw [h]⟩
    · exact ⟨s.inputs, s.draws + 1, by rw [h]⟩
  unfold inputCall
  split
  · split
    · exact ⟨s.inputs, s.draws, rfl⟩
    · exact hdraw
  · exact hdraw

/-- One call of `INPUT` changes what the host has ready and its record, and nothing else (R60). -/
theorem portIn_eq {port : Byte} {s : State} {inputs : List Byte} {draws : Nat}
    (h : (inputCall port s).2 = { s with inputs, draws }) :
    portIn port s = ((inputCall port s).1,
      { s with inputs, draws, events := s.events ++ [.input port (inputCall port s).1] }) := by
  rw [portIn, h]
  rfl

/-- One call of `OUTPUT` changes the devices and the host's record, and nothing else (R60); in the external map no device
either. -/
theorem portOut_update (port v : Byte) (s : State) :
    ∃ dev e, portOut port v s = { s with dev, events := s.events ++ .output port v :: e } ∧
      (s.cfg.ports = .external → dev = s.dev ∧ e = []) ∧
      (s.cfg.ports = .arcade → (dev, e) = s.dev.portWrite port v) := by
  unfold portOut
  split
  · next h => exact ⟨_, _, rfl, fun he => absurd (h.symm.trans he) nofun, fun _ => rfl⟩
  · next h => exact ⟨s.dev, [], rfl, fun _ => ⟨rfl, rfl⟩, fun ha => absurd (h.symm.trans ha) nofun⟩

theorem frame_in (p8 : Byte) (s : State) :
    Frame (.inP p8) s (((portIn p8 s).2.setReg .a (portIn p8 s).1).advance 2) := by
  obtain ⟨inputs, draws, h⟩ := inputCall_update p8 s
  rw [portIn_eq h]
  exact ⟨sameRegsBut_setReg s .a _, fun _ => rfl, flagsKept_refl .., .refl,
    ⟨fun _ _ => rfl, fun _ => rfl, fun _ => rfl, fun h => absurd rfl (h p8), fun h => absurd rfl (h p8), rfl, rfl, rfl,
      rfl, rfl⟩, ⟨_, rfl⟩⟩

theorem frame_out (p8 v : Byte) (s : State) : Frame (.outP p8) s ((portOut p8 v s).advance 2) := by
  obtain ⟨dev, e, h, -⟩ := portOut_update p8 v s
  rw [h]
  exact ⟨fun _ _ => rfl, fun _ => rfl, flagsKept_refl .., .refl,
    ⟨fun _ _ => rfl, fun _ => rfl, fun h => absurd rfl (h p8), fun _ => ⟨rfl, rfl⟩, fun _ h => absurd rfl (h p8), rfl,
      rfl, rfl, rfl, rfl⟩, ⟨_, rfl⟩⟩

theorem frame_ie {i : Instr} (hi : i = .ei ∨ i = .di) (v : Bool) (s : State) :
    Frame i s ((s.setIe v).advance 1) := by
  have hie : i ≠ .ei → i ≠ .di → v = s.ie := fun h1 h2 => (hi.elim h1 h2).elim
  exact ⟨fun _ _ => rfl, fun _ => rfl, flagsKept_refl .., .refl,
    ⟨hie, fun _ => rfl, fun _ => rfl, fun _ => ⟨rfl, rfl⟩, fun _ _ => rfl, rfl, rfl, rfl, rfl, rfl⟩,
    ⟨[], (List.append_nil _).symm⟩⟩

theorem frame_hlt (s : State) : Frame .hlt s ((s.setHalted true).advance 1) :=
  ⟨fun _ _ => rfl, fun _ => rfl, flagsKept_refl .., .refl,
    ⟨fun _ _ => rfl, fun h => absurd rfl h, fun _ => rfl, fun _ => ⟨rfl, rfl⟩, fun _ _ => rfl, rfl, rfl, rfl, rfl, rfl⟩,
    ⟨[], (List.append_nil _).symm⟩⟩

/-! The shapes that several instructions share. -/

/-- CALL, Ccc taken, RST and the pushes: a push, and then a write of PC. -/
theorem completes_push {i : Instr} {s : State} {v : Word} {pc : State → Word}
    (haddr : storeAddresses s i = [s.sp - 1, s.sp - 2]) (hsp : mayWriteSp i = true) :
    Completes s.cfg.memSize (Frame i s) (andThen (push16 v s) fun t => .next (t.setPc (pc t))) :=
  completes_andThen (completes_push16 s v) fun _ ⟨hin, ht⟩ => by
    subst ht
    exact .next _ (frame_stores (flagsKept_refl ..) (fun h => absurd (hsp.symm.trans h) nofun)
      (haddr ▸ stores_pushed v hin))

/-- RET and Rcc taken. -/
theorem completes_return {i : Instr} {s : State} (hsp : mayWriteSp i = true) :
    Completes s.cfg.memSize (Frame i s) (returnFromCall s) :=
  completes_andThen (completes_pop16 s) fun r ⟨_, hr⟩ => by
    rw [hr]
    exact .next _ (frame_stores (flagsKept_refl ..) (fun h => absurd (hsp.symm.trans h) nofun) .refl)

/-- An instruction that reads M, LDA and LDAX: what is read is used for registers and flags only. -/
theorem completes_load {i : Instr} {s : State} {a : Word} {u : Byte → State} (h : ∀ v, Frame i s (u v)) :
    Completes s.cfg.memSize (Frame i s) (andThen (read8 s a) fun v => .next (u v)) :=
  completes_andThen (completes_read8 s a) fun v _ => .next _ (h v)

/-- MOV M,r, MVI M, STA and STAX, and the store of INR M and DCR M. -/
theorem completes_store {i : Instr} {s : State} {a : Word} {v : Byte} {u : State → State}
    (h : InRange s a → Frame i s (u (stored s a v))) :
    Completes s.cfg.memSize (Frame i s) (andThen (write8 a v s) fun t => .next (u t)) :=
  completes_andThen (completes_write8 s a v) fun _ ⟨hin, ht⟩ => .next _ (ht ▸ h hin)

/-- Every instruction completes inside its frame, or reports an address outside the memory. -/
theorem exec_frame (i : Instr) (s : State) : Completes s.cfg.memSize (Frame i s) (exec i s) := by
  cases i
  -- No memory access: registers and flags.
  case nop => exact .next _ (frame_jump ..)
  case lxi rp _ | inx rp | dcx rp => exact .next _ (frame_setRegPair rp _ _ rfl rfl)
  case mviR | movRR | cma => exact .next _ (frame_setReg _ _ _ rfl)
  case xchg => exact .next _ (frame_registers 1 (sameRegsBut_exchanged s) (flagsKept_refl ..))
  case dad => exact .next _ (frame_registers 1 (sameRegsBut_setPair s .hl _) (flagsKept_cy ..))
  case inrR | dcrR => exact .next _ (frame_setReg_setFlags _ _ _ rfl (flagsKept_szp ..))
  case rlc | rrc | ral | rar => exact .next _ (frame_setReg_setFlags _ _ _ rfl (flagsKept_cy ..))
  case stc | cmc => exact .next _ (frame_registers (regs := s.regs) _ (fun _ _ => rfl) (flagsKept_cy ..))
  case addR | adi | adcR | aci | subR | sui | sbbR | sbi | anaR | ani | xraR | xri | oraR | ori =>
    exact .next _ (frame_setReg_setFlags _ _ _ rfl (flagsKept_all ..))
  case daa => exact .next _ (frame_registers 1 (sameRegsBut_setReg s .a _) (flagsKept_all ..))
  case cmpR | cpi => exact .next _ (frame_registers (regs := s.regs) _ (fun _ _ => rfl) (flagsKept_all ..))
  -- Loads.
  case movRM | lda | ldax =>
    exact completes_load fun _ => frame_setReg _ _ _ rfl
  case addM | adcM | subM | sbbM | anaM | xraM | oraM =>
    exact completes_load fun _ => frame_setReg_setFlags _ _ _ rfl (flagsKept_all ..)
  case cmpM =>
    exact completes_load fun _ => frame_registers (regs := s.regs) _ (fun _ _ => rfl) (flagsKept_all ..)
  case lhld =>
    exact completes_andThen (completes_read16 ..) fun _ _ =>
      .next _ (frame_setPair _ _ _ rfl)
  -- Stores.
  case movMR | mviM | sta | stax =>
    exact completes_store fun hin => frame_stores (flagsKept_refl ..) (fun _ => rfl) (stores_one _ hin)
  case inrM | dcrM =>
    exact completes_andThen (completes_read8 ..) fun _ _ =>
      completes_store fun hin => frame_stores (flagsKept_szp ..) (fun _ => rfl) (stores_one _ hin)
  case shld =>
    exact completes_andThen (completes_write16 ..) fun _ ⟨hin, ht⟩ =>
      .next _ (ht ▸ frame_stores (flagsKept_refl ..) (fun _ => rfl) (stores_word _ hin))
  case xthl =>
    exact completes_andThen (completes_read16 ..) fun v _ =>
      completes_andThen (completes_write16 ..) fun _ ⟨hin, ht⟩ =>
        .next _ (ht ▸ frame_update (sameRegsBut_setPair s .hl v) (flagsKept_refl ..) (fun _ => rfl) (stores_word _ hin))
  -- The stack.
  case pushRp | pushPsw | call | rst => exact completes_push rfl rfl
  case popRp rp =>
    exact completes_andThen (completes_pop16 s) fun r ⟨_, hr⟩ =>
      .next _ (hr ▸ frame_update (sameRegsBut_setPair s rp r.1) (flagsKept_refl ..) nofun .refl)
  case popPsw =>
    exact completes_andThen (completes_pop16 s) fun r ⟨_, hr⟩ =>
      .next _ (hr ▸ frame_update (sameRegsBut_setReg s .a _) (flagsKept_all ..) nofun .refl)
  case ret => exact completes_return rfl
  case sphl => exact .next _ (frame_update (fun _ _ => rfl) (flagsKept_refl ..) nofun .refl)
  -- Branches.
  case jmp | pchl => exact .next _ (frame_jump ..)
  case jcc cc a16 =>
    show Completes _ _ (execJcc cc a16 s)
    unfold execJcc
    split <;> exact .next _ (frame_jump ..)
  case ccc cc a16 =>
    show Completes _ _ (execCcc cc a16 s)
    unfold execCcc
    split
    · next h => exact completes_push (if_pos h) rfl
    · exact .next _ (frame_jump ..)
  case rcc cc =>
    show Completes _ _ (execRcc cc s)
    unfold execRcc
    split
    · exact completes_return rfl
    · exact .next _ (frame_jump ..)
  -- Ports, interrupt enable and halt.
  case inP => exact .next _ (frame_in ..)
  case outP => exact .next _ (frame_out ..)
  case ei => exact .next _ (frame_ie (.inl rfl) ..)
  case di => exact .next _ (frame_ie (.inr rfl) ..)
  case hlt => exact .next _ (frame_hlt s)

theorem frame_of_exec {i : Instr} {s t : State} (h : exec i s = .next t) : Frame i s t :=
  completes_next (exec_frame i s) h

end Sys2Proof.Machine
end

section
namespace Sys2Proof.Proofs

open Sys2Proof.Machine Sys2Proof.Spec

/-- Settles O14: `exec_frame` leaves no other way to stop. -/
theorem instructionStopsOnlyOutOfBounds : Obligations.InstructionStopsOnlyOutOfBounds := fun i s =>
  ⟨fun _ hf =>
    have ⟨a, hfa, ha⟩ := completes_fault (exec_frame i s) hf
    ⟨a, hfa, Nat.not_lt_of_le ha⟩,
    completes_ne_refused (exec_frame i s)⟩

/-- Settles O54 by the frame of an instruction. -/
theorem untouchedFlagsRetainValue : Obligations.UntouchedFlagsRetainValue := fun _ _ _ hexec =>
  (frame_of_exec hexec).flags

/-- Settles O55 by the frame of an instruction. -/
theorem registersWrittenOnlyByRule : Obligations.RegistersWrittenOnlyByRule := fun _ _ _ hexec =>
  ⟨(frame_of_exec hexec).regs, (frame_of_exec hexec).sp⟩

/-- Settles O56: the frame of an instruction is a sequence of writes to its store addresses. -/
theorem memoryWrittenOnlyByStores : Obligations.MemoryWrittenOnlyByStores := fun _ _ _ hwf hexec _ hx =>
  stores_read (frame_of_exec hexec).mem hwf hx

/-- Settles O57 by the frame of an instruction. -/
theorem machineStateWrittenOnlyByRule : Obligations.MachineStateWrittenOnlyByRule := fun _ _ _ hexec =>
  have h := (frame_of_exec hexec).rest
  ⟨h.ie, h.halted, h.dev, h.draws, h.events, h.cyc, h.fc, h.nextVec, h.half, h.cfg⟩

end Sys2Proof.Proofs
end

/-! ### Fetching, the Step and whoever makes it (30_encoding.md R90 to R92; 60_exceptions.md R221, R222, R230) -/

section
namespace Sys2Proof.Machine

open Sys2Proof.Spec Sys2Proof.Laws.EncodedLength

/-! What a fetch and a Step stop for. -/

theorem fetch_fault {s : State} {f : Fault} (h : fetch s = .fault f) : OutsideFault s.cfg.memSize f := by
  have hread {a : Word} (h : read8 s a = .fault f) := completes_fault (completes_read8 s a) h
  obtain h | ⟨op, -, h⟩ := andThen_fault.1 h
  · exact hread h
  · split at h
    · cases h
    · cases h
    · obtain h | ⟨_, -, ⟨⟩⟩ := andThen_fault.1 h
      exact hread h
    · obtain h | ⟨lo, -, h⟩ := andThen_fault.1 h
      · exact hread h
      · obtain h | ⟨_, -, ⟨⟩⟩ := andThen_fault.1 h
        exact hread h

theorem cpuStep_fault {s : State} {f : Fault} (h : cpuStep s = .fault f) : OutsideFault s.cfg.memSize f := by
  unfold cpuStep at h
  split at h
  · cases h
  · split at h
    · next hf => cases h; exact fetch_fault hf
    · cases h
    · split at h
      · next hf => cases h; exact completes_fault (exec_frame ..) hf
      · cases h
      · cases h

theorem synchronizerStep_fault {s : State} {f : Fault} (h : synchronizerStep s = .fault f) :
    OutsideFault s.cfg.memSize f := by
  unfold synchronizerStep at h
  split at h
  · split at h
    · cases h
    · cases h
    · next hf => cases h; exact cpuStep_fault hf
    · cases h
  · obtain hf | ⟨d, -, h⟩ := andThen_fault.1 h
    · exact completes_fault (completes_interrupt ..) hf
    · split at h <;> cases h

/-! Bytes at PC, whatever they decode to. -/

theorem bytesAtPc_getElem? {s : State} {k : Nat} (hk : k < 3) :
    (bytesAtPc s)[k]? = some (byteAt s (s.pc + BitVec.ofNat 16 k)) := by
  interval_cases k
  · exact congrArg (fun a => some (byteAt s a)) (BitVec.add_zero s.pc).symm
  · rfl
  · rfl

theorem length_le_three (i : Instr) : i.length ≤ 3 := by
  cases hasFormat i with
  | one _ hbytes | two _ _ _ _ hbytes | three _ _ _ _ hbytes => simp [Instr.length, hbytes]

theorem fetch_of_decode {s : State} {i : Instr} {rest : List Byte} (hdec : decode (bytesAtPc s) = .ok i rest)
    (hin : FetchInRange s i) : fetch s = .next i := by
  obtain ⟨hwf, hbytes⟩ := encode_append_of_decode hdec
  refine fetch_of_bytesAtPc hwf fun j hj => ⟨hin j hj, ?_⟩
  rw [← List.getElem?_append_left hj, hbytes, bytesAtPc_getElem? (Nat.lt_of_lt_of_le hj (length_le_three i))]

theorem fetch_refused {s : State} (hin : InRange s s.pc) (hop : byteAt s s.pc ∈ unsupportedOpcodes) :
    fetch s = .refused (.unsupportedOpcode (byteAt s s.pc) s.pc) := by
  simp only [fetch, read8_of_lt hin, andThen_ok, (opcodeForm_eq_unsupported_iff _).2 hop]

theorem cpuStep_of_fetch_refused {s : State} {x : Refusal} (hrun : s.halted = false) (h : fetch s = .refused x) :
    cpuStep s = .refused x := by
  simp only [cpuStep, hrun, Bool.false_eq_true, if_false, h]

/-! A fetch that reaches outside the memory, by the opcode's form (R69). -/

theorem formLength_of_mem_lengthTwo : ∀ op ∈ lengthTwo, formLength (opcodeForm op) = 2 := by decide

theorem formLength_of_mem_lengthThree : ∀ op ∈ lengthThree, formLength (opcodeForm op) = 3 := by decide

theorem fetch_fault_opcode {s : State} (h : ¬InRange s s.pc) : fetch s = .fault (.memoryOutOfBounds s.pc) := by
  rw [fetch, read8_of_not_inRange h, andThen_stop]

theorem fetch_fault_second {s : State} (hpc : InRange s s.pc) (hlen : 2 ≤ formLength (opcodeForm (byteAt s s.pc)))
    (h : ¬InRange s (s.pc + 1)) : fetch s = .fault (.memoryOutOfBounds (s.pc + 1)) := by
  cases hf : opcodeForm (byteAt s s.pc) with rw [hf] at hlen
  | one | unsupported => simp [formLength] at hlen
  | two | three => simp only [fetch, read8_of_lt hpc, andThen_ok, hf, read8_of_not_inRange h, andThen_stop]

theorem fetch_fault_third {s : State} (hpc : InRange s s.pc) (hlen : 3 ≤ formLength (opcodeForm (byteAt s s.pc)))
    (h1 : InRange s (s.pc + 1)) (h : ¬InRange s (s.pc + 2)) : fetch s = .fault (.memoryOutOfBounds (s.pc + 2)) := by
  cases hf : opcodeForm (byteAt s s.pc) with rw [hf] at hlen
  | one | two | unsupported => simp [formLength] at hlen
  | three =>
    simp only [fetch, read8_of_lt hpc, andThen_ok, hf, read8_of_lt h1, read8_of_not_inRange h, andThen_stop]

/-! What the runners make of a Step. -/

theorem step_of_cpuStep {s : State} {c : Nat} {r : Res State} (hrunner : s.cfg.runner = .synchronizer)
    (hfc : s.fc < burstTarget s) (h : cpuStep s = stepped c r) : step s = charged c r := by
  simp only [step, machineStep, hrunner, synchronizerStep, if_pos hfc, h]
  cases r <;> rfl

theorem step_of_cpuStep_harness {s : State} {c : Nat} {r : Res State} (hrunner : s.cfg.runner = .harness)
    (h5 : s.pc ≠ bdosEntry) (h0 : s.pc ≠ 0) (h : cpuStep s = stepped c r) : step s = chargedCyc c r := by
  simp only [step, machineStep, hrunner, harnessStep, if_neg h5, if_neg h0, h]
  cases r <;> rfl

end Sys2Proof.Machine
end

section
namespace Sys2Proof.Proofs

open Sys2Proof.Machine Sys2Proof.Spec

/-- Settles O13: every way to stop is an address outside the memory, and there is none. -/
theorem fullMemoryNeverFaults : Obligations.FullMemoryNeverFaults := by
  refine fun s hfull => ⟨fun i => completes_full (exec_frame i s) hfull, fun hrunner f hf => ?_⟩
  rw [step, machineStep, hrunner] at hf
  exact not_outsideFault_of_full hfull (synchronizerStep_fault hf)

/-- Settles O12: the opcode's form decides how many operand bytes are read, in ascending order. -/
theorem fetchReportsFirstOutOfBounds : Obligations.FetchReportsFirstOutOfBounds := by
  refine fun s hrun => ⟨fun h0 => ?opcode, fun h0 hop h1 => ?two, fun h0 hop h1 => ?three, fun h0 hop h1 h2 => ?third⟩ <;>
    refine cpuStep_of_fetch_fault hrun ?_
  case opcode => exact fetch_fault_opcode h0
  case two => exact fetch_fault_second h0 (formLength_of_mem_lengthTwo _ hop).ge h1
  case three => exact fetch_fault_second h0 (by rw [formLength_of_mem_lengthThree _ hop]; decide) h1
  case third => exact fetch_fault_third h0 (formLength_of_mem_lengthThree _ hop).ge h1 h2

/-- Settles O7: the decoded instruction is the fetched one. -/
theorem synchronizerStepRunsDecoded : Obligations.SynchronizerStepRunsDecoded :=
  fun _ _ _ hrunner hfc hrun hdec hin =>
    step_of_cpuStep hrunner hfc (cpuStep_of_fetch hrun (fetch_of_decode hdec hin))

/-- Settles O8: the decoded instruction is the fetched one. -/
theorem harnessStepRunsDecoded : Obligations.HarnessStepRunsDecoded :=
  fun _ _ _ hrunner h5 h0 hrun hdec hin =>
    step_of_cpuStep_harness hrunner h5 h0 (cpuStep_of_fetch hrun (fetch_of_decode hdec hin))

/-- Settles O10: a halted CPU's Step does not run, and each runner answers that with its own move. -/
theorem haltedCpuDoesNotRun : Obligations.HaltedCpuDoesNotRun := by
  intro s hhalt
  have hstep : cpuStep s = .notRunning := cpuStep_notRunning.2 hhalt
  refine ⟨hstep, fun hrunner hfc => ?idle, fun hrunner h5 h0 => ?stand⟩
  case idle =>
    simp only [step, machineStep, hrunner, synchronizerStep, if_pos hfc, hstep]
    rfl
  case stand =>
    have h5 : s.pc ≠ bdosEntry := h5
    have h0 : s.pc ≠ 0 := h0
    simp only [step, machineStep, hrunner, harnessStep, if_neg h5, if_neg h0, hstep]

/-- Settles O11: the fetch refuses the opcode, and the synchronizer passes the refusal on. -/
theorem unsupportedOpcodeIsRefused : Obligations.UnsupportedOpcodeIsRefused := fun _ hrun hin hop =>
  have hstep := cpuStep_of_fetch_refused hrun (fetch_refused hin hop)
  ⟨hstep, fun hrunner hfc => step_of_cpuStep (c := 0) (r := .refused _) hrunner hfc hstep⟩

end Sys2Proof.Proofs
end

/-! ### Words in memory and the stack (20_memory.md R55, R69; 44_stack.md R200) -/

section
namespace Sys2Proof.Machine

open Sys2Proof.Spec

theorem byteAt_stored {s : State} (hwf : s.mem.wf = true) (a b : Word) (v : Byte) :
    byteAt (stored s a v) b = if b = a then v else byteAt s b := by
  simp only [byteAt, stored_mem, read_write hwf, BitVec.toNat_inj]

theorem byteAt_stored_same {s : State} (hwf : s.mem.wf = true) (a : Word) (v : Byte) : byteAt (stored s a v) a = v := by
  rw [byteAt_stored hwf, if_pos rfl]

theorem byteAt_stored_other {s : State} (hwf : s.mem.wf = true) {a b : Word} (v : Byte) (h : b ≠ a) :
    byteAt (stored s a v) b = byteAt s b := by
  rw [byteAt_stored hwf, if_neg h]

theorem sameMemBut_of_stores {n : Nat} {as : List Word} {s t : State} (h : Stores n as s.mem t.mem)
    (hwf : s.mem.wf = true) : SameMemBut as s t := fun _ hx => stores_read h hwf hx

theorem ne_add_one (a : Word) : a ≠ a + 1 := by bv_omega

theorem sub_two_add_one (a : Word) : a - 2 + 1 = a - 1 := by bv_omega

/-! What stops an access to two bytes. -/

/-- An access at `a` and then at `b` stops at the first of them that is outside the memory. `PushFaults` and `WordFaults`
are this for the two addresses of a push and of a word. -/
def StopsInOrder {α : Type} (s : State) (a b : Word) (r : Res α) : Prop :=
  (¬InRange s a → r = .fault (.memoryOutOfBounds a)) ∧ (InRange s a → ¬InRange s b → r = .fault (.memoryOutOfBounds b))

theorem stopsInOrder_andThen {α β : Type} {s : State} {a b : Word} {r : Res α} (h : StopsInOrder s a b r)
    (k : α → Res β) : StopsInOrder s a b (andThen r k) :=
  ⟨fun ha => by rw [h.1 ha, andThen_stop], fun ha hb => by rw [h.2 ha hb, andThen_stop]⟩

theorem stopsInOrder_read16 (s : State) (a : Word) : StopsInOrder s a (a + 1) (read16 s a) :=
  ⟨fun ha => by rw [read16, read8_of_not_inRange ha, andThen_stop],
    fun ha hb => by rw [read16, read8_of_lt ha, andThen_ok, read8_of_not_inRange hb, andThen_stop]⟩

theorem stopsInOrder_write16 (s : State) (a v : Word) : StopsInOrder s a (a + 1) (write16 a v s) := by
  refine ⟨fun ha => by rw [write16, write8_of_not_inRange _ ha, andThen_stop], fun ha hb => ?_⟩
  rw [write16, write8_of_lt _ ha, andThen_ok]
  exact write8_of_not_inRange (s := stored s a _) _ hb

theorem stopsInOrder_push16 (s : State) (v : Word) : StopsInOrder s (s.sp - 1) (s.sp - 2) (push16 v s) := by
  refine ⟨fun ha => by rw [push16, write8_of_not_inRange _ ha, andThen_stop], fun ha hb => ?_⟩
  rw [push16, write8_of_lt _ ha, andThen_ok, write8_of_not_inRange (s := stored s _ _) _ hb, andThen_stop]

theorem stopsInOrder_pop16 (s : State) : StopsInOrder s s.sp (s.sp + 1) (pop16 s) :=
  stopsInOrder_andThen (stopsInOrder_read16 s s.sp) _

/-! The accesses inside the memory. -/

/-- The word at an address. -/
def wordAt (s : State) (a : Word) : Word := joinBytes (byteAt s (a + 1)) (byteAt s a)

/-- The state with the word `v` at an address. -/
def storedWord (s : State) (a v : Word) : State := stored (stored s a (loByte v)) (a + 1) (hiByte v)

theorem read16_of_wordInRange {s : State} {a : Word} (h : WordInRange s a) : read16 s a = .next (wordAt s a) :=
  read16_next.2 ⟨h.1, h.2, rfl⟩

theorem write16_of_wordInRange {s : State} {a : Word} (v : Word) (h : WordInRange s a) :
    write16 a v s = .next (storedWord s a v) :=
  write16_next.2 ⟨h.1, h.2, rfl⟩

theorem push16_of_canPush {s : State} (v : Word) (h : CanPush s) : push16 v s = .next (pushed s v) :=
  push16_next.2 ⟨h.1, h.2, rfl⟩

theorem pop16_of_wordInRange {s : State} (h : WordInRange s s.sp) :
    pop16 s = .next (wordAt s s.sp, s.setSp (s.sp + 2)) :=
  pop16_next.2 ⟨h.1, h.2, rfl⟩

theorem byteAt_storedWord_low {s : State} (hwf : s.mem.wf = true) (a v : Word) :
    byteAt (storedWord s a v) a = loByte v := by
  rw [storedWord, byteAt_stored_other (wf_write hwf ..) _ (ne_add_one a), byteAt_stored_same hwf]

theorem byteAt_storedWord_high {s : State} (hwf : s.mem.wf = true) (a v : Word) :
    byteAt (storedWord s a v) (a + 1) = hiByte v :=
  byteAt_stored_same (wf_write hwf ..) ..

theorem byteAt_pushed_high {s : State} (hwf : s.mem.wf = true) (v : Word) :
    byteAt (pushed s v) (s.sp - 1) = hiByte v := by
  have hne : s.sp - 1 ≠ s.sp - 2 := fun h => ne_add_one _ (h.symm.trans (sub_two_add_one s.sp).symm)
  exact (byteAt_stored_other (wf_write hwf ..) _ hne).trans (byteAt_stored_same hwf ..)

theorem byteAt_pushed_low {s : State} (hwf : s.mem.wf = true) (v : Word) :
    byteAt (pushed s v) (s.sp - 2) = loByte v :=
  byteAt_stored_same (wf_write hwf ..) ..

theorem wordAt_pushed {s : State} (hwf : s.mem.wf = true) (v : Word) : wordAt (pushed s v) (s.sp - 2) = v := by
  rw [wordAt, sub_two_add_one, byteAt_pushed_high hwf, byteAt_pushed_low hwf, joinBytes_bytes]

/-- `Pushes` speaks of SP and memory only, so whatever the instruction does beside the push does not matter. -/
theorem pushes_of_pushed {s t : State} {v : Word} (hwf : s.mem.wf = true) (h : CanPush s)
    (hsp : t.sp = (pushed s v).sp) (hmem : t.mem = (pushed s v).mem) : Pushes v s t where
  sp := hsp
  high := by rw [byteAt, hmem, ← hiByte_toNat, ← byteAt_pushed_high hwf]
  low := by rw [byteAt, hmem, ← loByte_toNat, ← byteAt_pushed_low hwf]
  mem := fun a ha => by
    rw [hmem]
    exact sameMemBut_of_stores (stores_pushed v h) hwf a ha

/-- A pop brings back what a push stored, and SP (R207). -/
theorem pop16_of_pushed {s t : State} (v : Word) (hwf : s.mem.wf = true) (h : CanPush s)
    (hsp : t.sp = (pushed s v).sp) (hmem : t.mem = (pushed s v).mem) (hcfg : t.cfg = s.cfg) :
    pop16 t = .next (v, t.setSp s.sp) := by
  have hsp : t.sp = s.sp - 2 := hsp
  have hin : WordInRange t t.sp := by
    rw [WordInRange, InRange, InRange, hcfg, hsp, sub_two_add_one]
    exact h.symm
  have hword : wordAt t t.sp = v := by
    rw [hsp, ← wordAt_pushed hwf v, wordAt, byteAt, byteAt, hmem, wordAt]
  rw [pop16_of_wordInRange hin, hword, hsp, BitVec.sub_add_cancel]

end Sys2Proof.Machine
end

/-! ### LHLD and SHLD, and the stack group (40_data_transfer.md R108, R109; 44_stack.md R201 to R207) -/

section
namespace Sys2Proof.Machine

open Sys2Proof.Spec

/-- CALL, Ccc taken, RST, PUSH rp and PUSH PSW differ in the word pushed and in the PC after it only. -/
theorem push_result {s : State} {i : Instr} {v target : Word} {pc : State → Word} (hwf : s.mem.wf = true)
    (hexec : exec i s = andThen (push16 v s) fun t => .next (t.setPc (pc t))) (hpc : pc (pushed s v) = target) :
    (CanPush s → ∃ t, exec i s = .next t ∧ Pushes v s t ∧ BranchForm target s t) ∧ PushFaults s (exec i s) := by
  rw [hexec]
  refine ⟨fun h => ⟨(pushed s v).setPc target, ?_, pushes_of_pushed hwf h rfl rfl, ?_⟩,
    stopsInOrder_andThen (stopsInOrder_push16 s v) _⟩
  · rw [push16_of_canPush v h, andThen_ok, hpc]
  · exact ⟨rfl, fun _ _ => rfl, rfl, sameRest_update ..⟩

/-- An instruction whose first access succeeds. -/
theorem exec_of_next {α : Type} {s : State} {i : Instr} {r : Res α} {v : α} {u : α → State}
    (hexec : exec i s = andThen r fun x => .next (u x)) (hr : r = .next v) : exec i s = .next (u v) := by
  rw [hexec, hr, andThen_ok]

theorem sameRegsBut_setReg_of_regs {s t : State} (r : Reg) (v : Byte) (h : t.regs = s.regs) :
    SameRegsBut [r] s (t.setReg r v) := fun q hq =>
  (sameRegsBut_setReg t r v q hq).trans (congrArg (Regs.get · q) h)

theorem sameRegsBut_setPair_of_regs {s t : State} (rp : Pair) (v : Word) (h : t.regs = s.regs) :
    SameRegsBut [pairHi rp, pairLo rp] s (t.setPair rp v) := fun q hq =>
  (sameRegsBut_setPair t rp v q hq).trans (congrArg (Regs.get · q) h)

theorem exec_pushRp {s : State} (rp : Pair) (h : CanPush s) :
    exec (.pushRp rp) s = .next ((pushed s (s.pair rp)).advance 1) :=
  exec_of_next rfl (push16_of_canPush _ h)

theorem exec_pushPsw {s : State} (h : CanPush s) :
    exec .pushPsw s = .next ((pushed s (joinBytes (s.reg .a) s.flags.pack)).advance 1) :=
  exec_of_next rfl (push16_of_canPush _ h)

theorem exec_popRp {s t : State} {v : Word} (rp : Pair) (h : pop16 s = .next (v, t)) :
    exec (.popRp rp) s = .next ((t.setPair rp v).advance 1) := by
  show andThen _ _ = _
  rw [h, andThen_ok]

theorem exec_popPsw {s t : State} {v : Word} (h : pop16 s = .next (v, t)) :
    exec .popPsw s = .next (((t.setReg .a (hiByte v)).setFlags (Flags.unpack (loByte v))).advance 1) := by
  show andThen _ _ = _
  rw [h, andThen_ok]

theorem hiByte_wordAt (s : State) (a : Word) : hiByte (wordAt s a) = byteAt s (a + 1) := hiByte_joinBytes ..

theorem loByte_wordAt (s : State) (a : Word) : loByte (wordAt s a) = byteAt s a := loByte_joinBytes ..

theorem wordAt_toNat (s : State) (a : Word) :
    (wordAt s a).toNat = 256 * (byteAt s (a + 1)).toNat + (byteAt s a).toNat := joinBytes_toNat ..

theorem hiByte_pair (s : State) (rp : Pair) : hiByte (s.pair rp) = s.reg (pairHi rp) := hiByte_joinBytes ..

theorem loByte_pair (s : State) (rp : Pair) : loByte (s.pair rp) = s.reg (pairLo rp) := loByte_joinBytes ..

theorem hiByte_hl (s : State) : hiByte s.hl = s.reg .h := hiByte_pair s .hl

theorem loByte_hl (s : State) : loByte s.hl = s.reg .l := loByte_pair s .hl

theorem set_get_same (x : Regs) (r : Reg) : x.set r (x.get r) = x := by cases r <;> rfl

/-! The status byte, bit by bit (10_state.md R33, R34). -/

theorem getLsbD_iff (b : Byte) (i : Nat) : b.getLsbD i = true ↔ b.toNat / 2 ^ i % 2 = 1 := by
  rw [← toNat_getLsbD, Bool.toNat_eq_one]

theorem getElem_bitAt (i j : Nat) (v : Bool) (hj : j < 8) : (bitAt i v)[j] = (decide (j = i) && v) := by
  cases v with
  | false => simp [bitAt]
  | true => exact (BitVec.getElem_twoPow hj).trans (Bool.and_true _).symm

theorem unpack_pack (f : Flags) : Flags.unpack f.pack = f := by
  simp [Flags.unpack, Flags.pack, getElem_bitAt]

theorem pack_unpack (b : Byte) : (Flags.unpack b).pack = (b &&& 0xD5#8) ||| 0x02#8 := by
  refine BitVec.eq_of_getLsbD_eq fun j hj => ?_
  interval_cases j <;> simp [Flags.unpack, Flags.pack, getElem_bitAt]

/-- A check of the 32 settings of the flags. -/
theorem pack_toNat (f : Flags) :
    f.pack.toNat = 128 * f.s.toNat + 64 * f.z.toNat + 16 * f.ac.toNat + 4 * f.p.toNat + 2 + f.cy.toNat := by
  obtain ⟨s, z, ac, p, cy⟩ := f
  revert s z ac p cy
  decide

end Sys2Proof.Machine
end

section
namespace Sys2Proof.Proofs

open Sys2Proof.Machine Sys2Proof.Spec

/-- Settles O40: packing puts each flag at its bit, and unpacking reads it there. -/
theorem statusByteRoundTrip : Obligations.StatusByteRoundTrip := ⟨unpack_pack, pack_unpack⟩

/-- Settles O19: one read or write of a word, whose low byte is L and whose high byte is H. -/
theorem wordLoadsAndStores : Obligations.WordLoadsAndStores := by
  refine ⟨fun _ => encoded_code3 rfl rfl rfl, fun _ => encoded_code3 rfl rfl rfl, fun s a16 hwf =>
    ⟨fun hin => ?load, stopsInOrder_andThen (stopsInOrder_read16 s a16) _, fun hin => ?store,
      stopsInOrder_andThen (stopsInOrder_write16 s a16 _) _⟩⟩
  case load =>
    refine ⟨_, exec_of_next rfl (read16_of_wordInRange hin), ?_, ?_, rfl, registerForm_setPair s 3 .hl _⟩
    · exact (setPair_reg_pairLo s _ .hl).trans (loByte_wordAt ..)
    · exact (setPair_reg_pairHi s _ .hl).trans (hiByte_wordAt ..)
  case store =>
    refine ⟨_, exec_of_next rfl (write16_of_wordInRange s.hl hin), ?_, ?_, rfl, ?_⟩
    · exact (byteAt_storedWord_low hwf ..).trans (loByte_hl s)
    · exact (byteAt_storedWord_high hwf ..).trans (hiByte_hl s)
    · exact ⟨rfl, rfl, fun _ _ => rfl, sameMemBut_of_stores (stores_word s.hl hin) hwf, sameRest_update ..⟩

/-- Settles O38: PUSH is one push of the pair, POP one pop into it. -/
theorem pushAndPopPairs : Obligations.PushAndPopPairs := by
  refine ⟨fun rp => encoded_of_encode rfl ?pushBytes, fun rp => encoded_of_encode rfl ?popBytes, fun s rp hwf => ?_⟩
  case pushBytes => cases rp <;> rfl
  case popBytes => cases rp <;> rfl
  obtain ⟨hpush, hfault⟩ := push_result (i := .pushRp rp) (v := s.pair rp) hwf rfl rfl
  refine ⟨hpush, hfault, fun hin => ⟨_, exec_popRp rp (pop16_of_wordInRange hin), ?lo, ?hi, rfl, rfl, rfl,
    sameRegsBut_setPair_of_regs rp _ rfl, fun _ _ => rfl, sameRest_update ..⟩, stopsInOrder_andThen (stopsInOrder_pop16 s) _⟩
  case lo => exact (setPair_reg_pairLo _ _ rp).trans (loByte_wordAt ..)
  case hi => exact (setPair_reg_pairHi _ _ rp).trans (hiByte_wordAt ..)

/-- Settles O39: PUSH PSW is one push of A and the packed flags, POP PSW one pop into them. -/
theorem pushAndPopPsw : Obligations.PushAndPopPsw := by
  refine ⟨encoded_of_encode rfl rfl, encoded_of_encode rfl rfl, fun s hwf => ?_⟩
  obtain ⟨hpush, hfault⟩ := push_result (i := .pushPsw) (v := joinBytes (s.reg .a) s.flags.pack) hwf rfl rfl
  refine ⟨fun h => ?push, hfault, fun hin => ?pop, stopsInOrder_andThen (stopsInOrder_pop16 s) _⟩
  case push =>
    obtain ⟨t, hexec, hpushes, hbranch⟩ := hpush h
    refine ⟨t, _, hexec, hpushes, hbranch, ?_, ?_⟩
    · rw [← hiByte_toNat, hiByte_joinBytes]
    · rw [← loByte_toNat, loByte_joinBytes, pack_toNat]
  case pop =>
    have hexec := exec_popPsw (pop16_of_wordInRange hin)
    rw [hiByte_wordAt, loByte_wordAt] at hexec
    exact ⟨_, hexec, setReg_reg_same (s.setSp _) .a _, getLsbD_iff _ 7, getLsbD_iff _ 6, getLsbD_iff _ 4,
      getLsbD_iff _ 2, getLsbD_zero_iff _, rfl, rfl, sameRegsBut_setReg_of_regs .a _ rfl, fun _ _ => rfl,
      sameRest_update ..⟩

/-- Settles O41: the pop gives back the pushed word (`pop16_of_pushed`). -/
theorem pushThenPopIsSymmetric : Obligations.PushThenPopIsSymmetric := by
  refine fun s hwf h => ⟨fun rp rp' => ?pairs, ?psw⟩
  case pairs =>
    have hpop := exec_popRp rp' (pop16_of_pushed (t := (pushed s (s.pair rp)).advance 1) (s.pair rp) hwf h rfl rfl rfl)
    refine ⟨_, _, exec_pushRp rp h, hpop, setPair_pair_same .., by simp, sameRegsBut_setPair_of_regs rp' _ rfl, ?_, ?_⟩
    · exact (byteAt_pushed_high hwf _).trans (hiByte_pair ..)
    · exact (byteAt_pushed_low hwf _).trans (loByte_pair ..)
  case psw =>
    let v := joinBytes (s.reg .a) s.flags.pack
    have hpop := exec_popPsw (pop16_of_pushed (t := (pushed s v).advance 1) v hwf h rfl rfl rfl)
    rw [hiByte_joinBytes, loByte_joinBytes, unpack_pack] at hpop
    exact ⟨_, _, exec_pushPsw h, hpop, set_get_same s.regs .a, by simp, by simp⟩

/-- Settles O42: XTHL reads the word at SP before it writes HL there; SPHL is one write of SP. -/
theorem xthlAndSphl : Obligations.XthlAndSphl := by
  refine ⟨encoded_of_encode rfl rfl, encoded_of_encode rfl rfl, fun s hwf => ⟨fun hin => ?exchange,
    stopsInOrder_andThen (stopsInOrder_read16 s s.sp) _,
    ⟨_, rfl, rfl, rfl, rfl, fun _ _ => rfl, fun _ _ => rfl, sameRest_update ..⟩⟩⟩
  have hexec : exec .xthl s = .next (((storedWord s s.sp s.hl).setPair .hl (wordAt s s.sp)).advance 1) := by
    show andThen _ _ = _
    rw [read16_of_wordInRange hin, andThen_ok, write16_of_wordInRange s.hl hin, andThen_ok]
  refine ⟨_, hexec, ?_, ?_, ?_, ?_, rfl, rfl, rfl, sameRegsBut_setPair_of_regs .hl _ rfl,
    sameMemBut_of_stores (stores_word s.hl hin) hwf, sameRest_update ..⟩
  · exact (setPair_reg_pairLo _ _ .hl).trans (loByte_wordAt ..)
  · exact (setPair_reg_pairHi _ _ .hl).trans (hiByte_wordAt ..)
  · exact (byteAt_storedWord_low hwf ..).trans (loByte_hl s)
  · exact (byteAt_storedWord_high hwf ..).trans (hiByte_hl s)

end Sys2Proof.Proofs
end

/-! ### Calls and returns (43_branch.md R184 to R188) -/

section
namespace Sys2Proof.Machine

open Sys2Proof.Spec

/-- RET, and Rcc taken. -/
theorem return_result {s : State} {i : Instr} (hexec : exec i s = returnFromCall s) :
    (WordInRange s s.sp → ∃ t, exec i s = .next t ∧ t.pc.toNat = stackTop s ∧ t.sp = s.sp + 2 ∧ BranchForm t.pc s t ∧
      SameMemBut [] s t) ∧ WordFaults s s.sp (exec i s) :=
  ⟨fun h => ⟨_, exec_of_next hexec (pop16_of_wordInRange h), wordAt_toNat .., rfl,
    ⟨rfl, fun _ _ => rfl, rfl, sameRest_update ..⟩, fun _ _ => rfl⟩,
    hexec ▸ stopsInOrder_andThen (stopsInOrder_pop16 s) _⟩

/-- A RET after a push and a jump, which CALL and RST are. -/
theorem return_after_push {s : State} {i : Instr} {v target : Word} (hwf : s.mem.wf = true) (h : CanPush s)
    (hexec : exec i s = andThen (push16 v s) fun t => .next (t.setPc target)) :
    ∃ t u, exec i s = .next t ∧ exec .ret t = .next u ∧ u.pc = v ∧ u.sp = s.sp ∧ u.regs = s.regs ∧ u.flags = s.flags :=
  ⟨(pushed s v).setPc target, _, by rw [hexec, push16_of_canPush v h, andThen_ok],
    exec_of_next rfl (pop16_of_pushed v hwf h rfl rfl rfl), by simp, by simp, by simp [pushed], by simp [pushed]⟩

end Sys2Proof.Machine
end

section
namespace Sys2Proof.Proofs

open Sys2Proof.Machine Sys2Proof.Spec

/-- Settles O34: a call taken is one push of the address after it and a jump. -/
theorem callsPushReturnAddress : Obligations.CallsPushReturnAddress := by
  refine ⟨fun _ => encoded_code3 rfl rfl rfl, fun cc _ => encoded_code3 rfl ?cccOpcode rfl, fun s hwf =>
    ⟨fun _ => push_result hwf rfl rfl, fun cc a16 => ⟨fun h => ?taken, fun h => ?notTaken⟩⟩⟩
  case cccOpcode => cases cc <;> rfl
  case taken => exact push_result hwf (if_pos ((condHolds_iff cc _).2 h)) rfl
  case notTaken => exact ⟨_, if_neg (mt (condHolds_iff cc _).1 h), jumpForm_setPc s _⟩

/-- Settles O35: RST is one push of the address after it and a jump to its vector. -/
theorem rstCallsItsVector : Obligations.RstCallsItsVector := by
  refine ⟨fun n hn => encoded_of_encode (wellFormed_rst.2 hn) ?bytes, fun s n hwf hn => ?_⟩
  case bytes => interval_cases n <;> rfl
  obtain ⟨hpush, hfault⟩ := push_result (i := .rst n) (v := s.pc + 1) hwf rfl rfl
  refine ⟨fun h => ?_, hfault⟩
  obtain ⟨t, hexec, hpushes, hbranch⟩ := hpush h
  refine ⟨t, hexec, hpushes, by rw [hbranch.pc]; exact hbranch, ?_⟩
  rw [hbranch.pc]
  exact Nat.mod_eq_of_lt (show 8 * n < 65536 by omega)

/-- Settles O36: a return taken is one pop into PC. -/
theorem returnsPopPc : Obligations.ReturnsPopPc := by
  refine ⟨encoded_of_encode rfl rfl, fun cc => encoded_of_encode rfl ?bytes, fun s => ?_⟩
  case bytes => cases cc <;> rfl
  obtain ⟨hret, hfault⟩ := return_result (s := s) (i := .ret) rfl
  exact ⟨hret, hfault, fun cc => ⟨fun h => return_result (if_pos ((condHolds_iff cc _).2 h)),
    fun h => ⟨_, if_neg (mt (condHolds_iff cc _).1 h), jumpForm_setPc s _⟩⟩⟩

/-- Settles O37: both push the address after them, which the RET pops. -/
theorem returnResumesAfterCall : Obligations.ReturnResumesAfterCall := fun _ hwf h =>
  ⟨fun _ => return_after_push hwf h rfl, fun _ => return_after_push hwf h rfl⟩

end Sys2Proof.Proofs
end

/-! ### Interrupt delivery and the delivery point (60_exceptions.md R225 to R234) -/

section
namespace Sys2Proof.Machine

open Sys2Proof.Spec

/-- The half of the frame after a delivery point (R230). -/
def FrameHalf.toggle : FrameHalf → FrameHalf
  | .first => .second
  | .second => .first

/-- What a delivery point leaves of `n` in `fc`: the second one of a frame takes `FRAME_CYCLES` (R234). -/
def carriedFc (s : State) (n : Nat) : Nat :=
  match s.half with
  | .first => n
  | .second => n - s.cfg.frameCycles

theorem carriedFc_of_first {s : State} {n : Nat} (h : s.half = .first) : carriedFc s n = n := by rw [carriedFc, h]

theorem carriedFc_of_second {s : State} {n : Nat} (h : s.half = .second) : carriedFc s n = n - s.cfg.frameCycles := by
  rw [carriedFc, h]

theorem endDelivery_eq (s : State) :
    endDelivery s = { s with nextVec := s.nextVec.toggle, half := s.half.toggle, fc := carriedFc s s.fc } := by
  unfold endDelivery carriedFc
  cases s.half <;> rfl

theorem VecSel.toggle_ne (v : VecSel) : v.toggle ≠ v := by cases v <;> nofun

theorem FrameHalf.toggle_ne (h : FrameHalf) : h.toggle ≠ h := by cases h <;> nofun

theorem toggle_in_step (v : VecSel) (h : FrameHalf) :
    (v.toggle = .a ↔ h.toggle = .first) ↔ (v = .a ↔ h = .first) := by
  cases v <;> cases h <;> decide

theorem vectorAddress_eq (s : State) :
    vectorAddress s = if s.nextVec = .a then s.cfg.vecA else s.cfg.vecB := by
  unfold vectorAddress
  cases s.nextVec <;> rfl

theorem interrupt_rejected {s : State} (vec : Word) (h : s.ie = false) : interrupt vec s = .next .rejected :=
  interrupt_next.2 (.inl ⟨h, rfl⟩)

theorem interrupt_accepted {s : State} (vec : Word) (hie : s.ie = true) (h : CanPush s) :
    interrupt vec s = .next (.accepted (interrupted vec s)) :=
  interrupt_next.2 (.inr ⟨hie, h.1, h.2, rfl⟩)

theorem stopsInOrder_interrupt {s : State} (vec : Word) (hie : s.ie = true) :
    StopsInOrder s (s.sp - 1) (s.sp - 2) (interrupt vec s) := by
  rw [interrupt, if_pos hie]
  exact stopsInOrder_andThen (stopsInOrder_push16 (s.setHalted false) s.pc) _

theorem interrupted_eq {s : State} (vec : Word) (hie : s.ie = true) :
    interrupted vec s = { s with
      halted := false, pc := vec, sp := s.sp - 2, mem := (pushed s s.pc).mem, ie := !s.cfg.intClearsIe } := by
  have hclear : (if s.cfg.intClearsIe then false else s.ie) = !s.cfg.intClearsIe := by
    rw [hie]
    cases s.cfg.intClearsIe <;> rfl
  rw [interrupted, hclear]
  rfl

/-- The state after a delivery point at which the interrupt is accepted (R233). -/
theorem endDelivery_interrupted {s : State} (hie : s.ie = true) :
    endDelivery ((interrupted (vectorAddress s) s).setFc (s.fc + s.cfg.intCycles)) = { s with
      halted := false, pc := vectorAddress s, sp := s.sp - 2, mem := (pushed s s.pc).mem, ie := !s.cfg.intClearsIe,
      nextVec := s.nextVec.toggle, half := s.half.toggle, fc := carriedFc s (s.fc + s.cfg.intCycles) } := by
  rw [endDelivery_eq, interrupted_eq _ hie]
  rfl

theorem step_of_delivery {s : State} (hrunner : s.cfg.runner = .synchronizer) (hfc : burstTarget s ≤ s.fc) :
    step s = deliver s := by
  simp only [step, machineStep, hrunner, synchronizerStep, if_neg (Nat.not_lt_of_le hfc)]

theorem deliver_rejected {s : State} (h : s.ie = false) : deliver s = .next (endDelivery s) := by
  rw [deliver, interrupt_rejected _ h, andThen_ok]

theorem deliver_accepted {s : State} (hie : s.ie = true) (h : CanPush s) :
    deliver s = .next (endDelivery ((interrupted (vectorAddress s) s).setFc (s.fc + s.cfg.intCycles))) := by
  rw [deliver, interrupt_accepted _ hie h, andThen_ok]
  rfl

end Sys2Proof.Machine
end

section
namespace Sys2Proof.Proofs

open Sys2Proof.Machine Sys2Proof.Spec

/-- Settles O48: an accepted interrupt is one push of PC and a jump. -/
theorem interruptDelivery : Obligations.InterruptDelivery := by
  refine fun s vec hwf => ⟨interrupt_rejected vec, fun hie => ⟨fun h => ?_, stopsInOrder_interrupt vec hie⟩⟩
  have haccept := interrupt_accepted vec hie h
  rw [interrupted_eq vec hie] at haccept
  exact ⟨_, haccept, pushes_of_pushed hwf h rfl rfl, rfl, rfl, rfl, rfl, rfl, rfl, rfl, rfl, rfl, rfl, rfl, rfl, rfl,
    rfl⟩

/-- Settles O49: the step is `deliver`, and `endDelivery` toggles on either answer of the interrupt. -/
theorem deliveryPointOffersAndToggles : Obligations.DeliveryPointOffersAndToggles := by
  refine fun s hrunner hfc => ⟨fun hie => ?rejected, fun hie hwf h => ?accepted⟩ <;>
    rw [step_of_delivery hrunner hfc]
  case rejected =>
    rw [deliver_rejected hie, endDelivery_eq]
    exact ⟨_, rfl, s.nextVec.toggle_ne, s.half.toggle_ne, carriedFc_of_first, carriedFc_of_second, rfl⟩
  case accepted =>
    rw [deliver_accepted hie h, endDelivery_interrupted hie]
    exact ⟨_, rfl, s.nextVec.toggle_ne, s.half.toggle_ne, carriedFc_of_first, carriedFc_of_second, vectorAddress_eq s,
      pushes_of_pushed hwf h rfl rfl, rfl, rfl, rfl, rfl, rfl, rfl, rfl⟩

end Sys2Proof.Proofs
end

/-! ### What every move of the machine keeps (10_state.md R37, R38, R41; 20_memory.md R51; 60_exceptions.md R231 to R234) -/

section
namespace Sys2Proof.Machine

open Sys2Proof.Spec

/-- The invariant is about memory, MEM_SIZE, the alternator and the half only. -/
theorem inv_of_stores {s t : State} {as : List Word} (hs : s.Inv) (hmem : Stores s.cfg.memSize as s.mem t.mem)
    (hcfg : t.cfg = s.cfg) (hsync : (t.nextVec = .a ↔ t.half = .first) ↔ (s.nextVec = .a ↔ s.half = .first)) : t.Inv := by
  obtain ⟨hwf, hin, hs⟩ := hs
  exact ⟨stores_wf hmem hwf, by rw [hcfg]; exact stores_within hmem hin, hsync.2 hs⟩

theorem inv_of_frame {i : Instr} {s t : State} (hs : s.Inv) (h : Frame i s t) : t.Inv :=
  inv_of_stores hs h.mem h.rest.cfg (by rw [h.rest.nextVec, h.rest.half])

theorem syncMove_inv {s t : State} (hs : s.Inv) (h : SyncMove s t) : t.Inv := by
  cases h with
  | ran i u _ _ _ hexec ht => subst ht; exact inv_of_frame (t := u) hs (frame_of_exec hexec)
  | idled _ _ ht => subst ht; exact hs
  | rejected _ _ ht =>
    rw [ht, endDelivery_eq]
    exact inv_of_stores hs (as := []) .refl rfl (toggle_in_step ..)
  | accepted _ hie h1 h2 ht =>
    rw [ht, endDelivery_interrupted hie]
    exact inv_of_stores hs (stores_pushed s.pc ⟨h1, h2⟩) rfl (toggle_in_step ..)

theorem harnessMove_inv {s t : State} (hs : s.Inv) (h : HarnessMove s t) : t.Inv := by
  cases h with
  | intercepted cs u _ _ hret ht =>
    obtain ⟨_, _, rfl⟩ := returnFromCall_next.1 hret
    subst ht; exact hs
  | ran i u _ _ _ _ hexec ht => subst ht; exact inv_of_frame (t := u) hs (frame_of_exec hexec)
  | stood _ _ _ ht => subst ht; exact hs

/-! The record of the run: cycles, parameters, host events. -/

/-- From `s` to `t` the cycle count did not fall, the parameters are the same, and the host's record was only
appended to. -/
def RecordGrows (s t : State) : Prop := s.cyc ≤ t.cyc ∧ t.cfg = s.cfg ∧ ∃ e, t.events = s.events ++ e

theorem recordGrows_of_eq {s t : State} (hcyc : t.cyc = s.cyc) (hcfg : t.cfg = s.cfg) (hev : t.events = s.events) :
    RecordGrows s t :=
  ⟨hcyc.ge, hcfg, [], by rw [hev, List.append_nil]⟩

theorem recordGrows_of_ran {i : Instr} {s u : State} (h : Frame i s u) (c : Nat) : RecordGrows s (u.charge c) :=
  ⟨Nat.le_trans h.rest.cyc.ge (Nat.le_add_right ..), h.rest.cfg, h.record⟩

theorem recordGrows_of_step {s t : State} (h : step s = .next t) : RecordGrows s t := by
  obtain ⟨-, h⟩ | ⟨-, h⟩ := step_next h
  · cases h with
    | ran i u _ _ _ hexec ht => subst ht; exact recordGrows_of_ran (frame_of_exec hexec) _
    | idled _ _ ht => subst ht; exact recordGrows_of_eq rfl rfl rfl
    | rejected _ _ ht => rw [ht, endDelivery_eq]; exact recordGrows_of_eq rfl rfl rfl
    | accepted _ hie _ _ ht => rw [ht, endDelivery_interrupted hie]; exact recordGrows_of_eq rfl rfl rfl
  · cases h with
    | intercepted cs u _ _ hret ht =>
      obtain ⟨_, _, rfl⟩ := returnFromCall_next.1 hret
      subst ht; exact ⟨Nat.le_refl _, rfl, _, rfl⟩
    | ran i u _ _ _ _ hexec ht => subst ht; exact recordGrows_of_ran (frame_of_exec hexec) _
    | stood _ _ _ ht => subst ht; exact recordGrows_of_eq rfl rfl rfl

/-! The bounds on `fc`. -/

theorem timingInv_iff (s : State) : s.TimingInv ↔ s.fc ≤ burstTarget s + 17 := by
  unfold State.TimingInv burstTarget
  cases s.half <;> rfl

theorem burstTarget_congr {s t : State} (hhalf : t.half = s.half) (hcfg : t.cfg = s.cfg) :
    burstTarget t = burstTarget s := by
  rw [burstTarget, burstTarget, hhalf, hcfg]

/-- XTHL is the longest instruction of R272. -/
theorem standardCost_le (i : Instr) : (standardCost i).taken ≤ 18 ∧ (standardCost i).notTaken ≤ 18 := by
  cases i <;> exact ⟨Nat.le_of_ble_eq_true rfl, Nat.le_of_ble_eq_true rfl⟩

theorem cycleCost_le {cfg : Config} (h : cfg.cycleTable = .standard) (i : Instr) (f : Flags) :
    cycleCost cfg i f ≤ 18 := by
  rw [cycleCost, cycleRow, h]
  split
  · exact (standardCost_le i).1
  · exact (standardCost_le i).2

/-- A delivery point passes at most 17 cycles over the next target on, when it is reached with at most 17 and one
interrupt cost over its own. -/
theorem carriedFc_le {s : State} {n : Nat} (hcfg : TimedConfig s.cfg) (hn : n ≤ burstTarget s + 17 + s.cfg.intCycles) :
    carriedFc s n ≤ burstTarget { s with half := s.half.toggle } + 17 ∧
      (s.half = .second → carriedFc s n ≤ 17 + 2 * s.cfg.intCycles) := by
  have hint : 2 * s.cfg.intCycles ≤ s.cfg.frameCycles / 2 := hcfg.2
  cases h : s.half with
  | first =>
    have hn : n ≤ s.cfg.frameCycles / 2 + 17 + s.cfg.intCycles := by simpa [burstTarget, h, Config.halfCycles] using hn
    refine ⟨?_, nofun⟩
    show carriedFc s n ≤ s.cfg.frameCycles + 17
    rw [carriedFc_of_first h]
    omega
  | second =>
    have hn : n ≤ s.cfg.frameCycles + 17 + s.cfg.intCycles := by simpa [burstTarget, h] using hn
    rw [carriedFc_of_second h]
    refine ⟨?_, fun _ => by omega⟩
    show n - s.cfg.frameCycles ≤ s.cfg.frameCycles / 2 + 17
    omega

end Sys2Proof.Machine
end

section
namespace Sys2Proof.Proofs

open Sys2Proof.Machine Sys2Proof.Spec

/-- Settles O51 by the moves of the machine: instructions store inside the memory, delivery points toggle the alternator
and the half together. -/
theorem stepKeepsInvariant : Obligations.StepKeepsInvariant := by
  intro s t hs hstep
  obtain ⟨-, h⟩ | ⟨-, h⟩ := step_next hstep
  · exact syncMove_inv hs h
  · exact harnessMove_inv hs h

/-- Settles O52: a Step starts below the target and costs at most 18; a delivery point passes the overshoot and one
interrupt cost on to the next burst. -/
theorem stepKeepsTimingBound : Obligations.StepKeepsTimingBound := by
  intro s t hrunner hcfg hs hstep
  have same_half {t : State} (hhalf : t.half = s.half) (ht : t.TimingInv) :
      t.TimingInv ∧ (s.half = .second → t.half = .first → t.fc ≤ 17 + 2 * s.cfg.intCycles) :=
    ⟨ht, fun h2 h1 => absurd (h2.symm.trans (hhalf.symm.trans h1)) nofun⟩
  rw [timingInv_iff] at hs
  obtain ⟨-, h⟩ | ⟨hharness, -⟩ := step_next hstep
  · cases h with
    | ran i u hfc _ _ hexec ht =>
      subst ht
      have hrest := (frame_of_exec hexec).rest
      have hcost := cycleCost_le hcfg.1 i s.flags
      refine same_half hrest.half ((timingInv_iff _).2 ?_)
      have htarget : burstTarget ((u.charge (cycleCost s.cfg i s.flags)).setFc (u.fc + cycleCost s.cfg i s.flags)) =
          burstTarget s :=
        burstTarget_congr hrest.half hrest.cfg
      rw [htarget, setFc_fc, hrest.fc]
      omega
    | idled _ _ ht =>
      subst ht
      exact same_half rfl ((timingInv_iff _).2 (Nat.le_add_right ..))
    | rejected _ _ ht =>
      obtain ⟨hnext, hend⟩ := carriedFc_le hcfg (Nat.le_add_right_of_le hs)
      rw [ht, endDelivery_eq]
      exact ⟨(timingInv_iff _).2 hnext, fun h2 _ => hend h2⟩
    | accepted _ hie _ _ ht =>
      obtain ⟨hnext, hend⟩ := carriedFc_le hcfg (Nat.add_le_add_right hs s.cfg.intCycles)
      rw [ht, endDelivery_interrupted hie]
      exact ⟨(timingInv_iff _).2 hnext, fun h2 _ => hend h2⟩
  · exact absurd (hrunner.symm.trans hharness) nofun

/-- Settles O58: every other move either needs a running CPU or leaves `halted` as it is. -/
theorem onlyDeliveryRevives : Obligations.OnlyDeliveryRevives := by
  intro s t hhalt hstep hrun
  have running {u : State} (h : u.halted = s.halted) (hu : u.halted = false) : False := by
    rw [h, hhalt] at hu
    cases hu
  obtain ⟨hrunner, h⟩ | ⟨-, h⟩ := step_next hstep
  · cases h with
    | ran _ _ _ hrun' => exact (running rfl hrun').elim
    | idled _ _ ht => subst ht; exact (running rfl hrun).elim
    | rejected _ _ ht => rw [ht, endDelivery_eq] at hrun; exact (running rfl hrun).elim
    | accepted hfc hie _ _ ht =>
      refine ⟨hie, hrunner, hfc, ?_⟩
      rw [ht, endDelivery_interrupted hie]
      exact vectorAddress_eq s
  · cases h with
    | intercepted cs u _ _ hret ht =>
      obtain ⟨_, _, rfl⟩ := returnFromCall_next.1 hret
      subst ht
      exact (running rfl hrun).elim
    | ran _ _ _ _ hrun' => exact (running rfl hrun').elim
    | stood _ _ _ ht => subst ht; exact (running rfl hrun).elim

/-- Settles O59 by the moves of the machine. -/
theorem cycleCountOnlyGrows : Obligations.CycleCountOnlyGrows := fun _ _ => recordGrows_of_step

/-- Settles O1: the reset state evaluated. -/
theorem resetLeavesSpecValues : Obligations.ResetLeavesSpecValues :=
  ⟨fun r => by cases r <;> rfl, rfl, rfl, rfl, rfl, rfl, rfl, rfl, rfl, rfl, fun _ => rfl, rfl, rfl, rfl, rfl⟩

/-- Settles O50: an empty memory is canonical, and the alternator and the half both start a frame. -/
theorem resetMeetsInvariant : Obligations.ResetMeetsInvariant := by
  have inv_resetWith (cfg : Config) : (State.resetWith cfg).Inv := ⟨rfl, rfl, iff_of_true rfl rfl⟩
  exact ⟨inv_resetWith _, Nat.zero_le _, ⟨rfl, Nat.zero_le _⟩, inv_resetWith _⟩

end Sys2Proof.Proofs
end

/-! ### A word placed where the next step fetches it (log entry 15) -/

section
namespace Sys2Proof.Machine

open Sys2Proof.Spec

/-- The state with three bytes stored from PC on. -/
def placed (s : State) (x y z : Byte) : State := stored (stored (stored s s.pc x) (s.pc + 1) y) (s.pc + 2) z

theorem bytesAtPc_placed {s : State} (hwf : s.mem.wf = true) (x y z : Byte) :
    bytesAtPc (placed s x y z) = [x, y, z] := by
  have hwf1 : (stored s s.pc x).mem.wf = true := wf_write hwf ..
  have hwf2 : (stored (stored s s.pc x) (s.pc + 1) y).mem.wf = true := wf_write hwf1 ..
  have h01 : s.pc ≠ s.pc + 1 := ne_add_one s.pc
  have h02 : s.pc ≠ s.pc + 2 := by bv_omega
  have h12 : s.pc + 1 ≠ s.pc + 2 := by bv_omega
  have hx : byteAt (placed s x y z) s.pc = x := by
    rw [placed, byteAt_stored_other hwf2 z h02, byteAt_stored_other hwf1 y h01, byteAt_stored_same hwf]
  have hy : byteAt (placed s x y z) (s.pc + 1) = y := by
    rw [placed, byteAt_stored_other hwf2 z h12, byteAt_stored_same hwf1]
  have hz : byteAt (placed s x y z) (s.pc + 2) = z := byteAt_stored_same hwf2 ..
  calc bytesAtPc (placed s x y z)
      = [byteAt (placed s x y z) s.pc, byteAt (placed s x y z) (s.pc + 1), byteAt (placed s x y z) (s.pc + 2)] := rfl
    _ = [x, y, z] := by rw [hx, hy, hz]

theorem stores_placed {s : State} (x y z : Byte) (h0 : InRange s s.pc) (h1 : InRange s (s.pc + 1))
    (h2 : InRange s (s.pc + 2)) :
    Stores s.cfg.memSize [s.pc, s.pc + 1, s.pc + 2] s.mem (placed s x y z).mem :=
  .write _ z (.write _ y (.write _ x .refl (by simp) h0) (by simp) h1) (by simp) h2

theorem readyToStep_of_synchronizer {s : State} (h : s.cfg.runner = .synchronizer) :
    s.readyToStep = { s with halted := false, fc := if s.fc < burstTarget s then s.fc else 0 } := by
  simp only [State.readyToStep, h]

theorem withFetchWord_eq_placed {s : State} {nbits w : Nat} {x y z : Byte} (h : s.cfg.runner = .synchronizer)
    (hbytes : tableWordBytes nbits w = [x, y, z]) :
    s.withFetchWord nbits w =
      placed { s with halted := false, fc := if s.fc < burstTarget s then s.fc else 0 } x y z := by
  have htwo : s.pc + 1 + 1 = s.pc + 2 := BitVec.add_assoc ..
  rw [State.withFetchWord, readyToStep_of_synchronizer h, hbytes, placed, ← htwo]
  rfl

theorem decode_of_decodeTableWord {nbits w : Nat} {i : Instr} (h : decodeTableWord nbits w = some i) :
    ∃ rest, decode (tableWordBytes nbits w) = .ok i rest := by
  unfold decodeTableWord at h
  split at h
  · next j rest hdec => cases h; exact ⟨rest, hdec⟩
  · cases h
  · cases h

/-- A state below its target, whose three bytes at PC are inside the memory and decode, makes a Step of the decoded
instruction. -/
theorem step_of_decode {s : State} {i : Instr} {rest : List Byte} (hrunner : s.cfg.runner = .synchronizer)
    (hfc : s.fc < burstTarget s) (hrun : s.halted = false) (h0 : InRange s s.pc) (h1 : InRange s (s.pc + 1))
    (h2 : InRange s (s.pc + 2)) (hdec : decode (bytesAtPc s) = .ok i rest) :
    step s = charged (cycleCost s.cfg i s.flags) (exec i s) := by
  have hin : FetchInRange s i := fun k hk => by
    have hk : k < 3 := Nat.lt_of_lt_of_le hk (length_le_three i)
    interval_cases k
    · rw [BitVec.add_zero]; exact h0
    · exact h1
    · exact h2
  exact step_of_cpuStep hrunner hfc (cpuStep_of_fetch hrun (fetch_of_decode hdec hin))

end Sys2Proof.Machine
end

section
namespace Sys2Proof.Proofs

open Sys2Proof.Machine Sys2Proof.Spec

/-- Settles O9: the placed bytes are read back and decode to the instruction. -/
theorem placedWordRunsNext : Obligations.PlacedWordRunsNext := by
  intro s nbits w i hrunner htarget hwf h0 h1 h2 hword
  obtain ⟨rest, hdec⟩ := decode_of_decodeTableWord hword
  obtain ⟨x, y, z, hbytes⟩ : ∃ x y z, tableWordBytes nbits w = [x, y, z] := ⟨_, _, _, rfl⟩
  rw [withFetchWord_eq_placed hrunner hbytes]
  refine ⟨step_of_decode (rest := rest) hrunner ?below rfl h0 h1 h2 ?decodes, rfl, rfl, rfl, rfl,
    sameMemBut_of_stores (stores_placed x y z h0 h1 h2) hwf⟩
  case below =>
    show (if s.fc < burstTarget s then s.fc else 0) < burstTarget s
    split <;> assumption
  case decodes => exact (congrArg decode (bytesAtPc_placed hwf x y z)).trans (hbytes ▸ hdec)

end Sys2Proof.Proofs
end

/-! ### The conformance harness (70_reset_and_hazards.md R264) -/

section
namespace Sys2Proof.Machine

open Sys2Proof.Spec

/-! What the intercepted call prints. -/

theorem harnessPrint_string {s : State} (h : s.reg .c = 9) :
    harnessPrint s = stringAt s (s.pair .de) 65536 (s.pair .de) := by
  rw [harnessPrint, h]
  rfl

theorem harnessPrint_char {s : State} (h : s.reg .c = 2) : harnessPrint s = .next [s.reg .e] := by
  rw [harnessPrint, h]
  rfl

theorem harnessPrint_other {s : State} (h9 : s.reg .c ≠ 9) (h2 : s.reg .c ≠ 2) : harnessPrint s = .next [] := by
  unfold harnessPrint
  split
  · next h => exact absurd (BitVec.eq_of_toNat_eq h) h9
  · next h => exact absurd (BitVec.eq_of_toNat_eq h) h2
  · rfl

theorem add_one_add_ofNat (a : Word) (k : Nat) : a + 1 + BitVec.ofNat 16 k = a + BitVec.ofNat 16 (k + 1) := by
  rw [BitVec.add_assoc, BitVec.add_comm 1, BitVec.ofNat_add]
  rfl

/-- The bytes `cs` stand in memory from `a` on, inside it, with the terminator after them and none among them. -/
def StringFrom (s : State) (a : Word) (cs : List Byte) : Prop :=
  (∀ k, k < cs.length → InRange s (a + BitVec.ofNat 16 k) ∧ cs[k]? = some (byteAt s (a + BitVec.ofNat 16 k)) ∧
    byteAt s (a + BitVec.ofNat 16 k) ≠ stringEnd) ∧
  InRange s (a + BitVec.ofNat 16 cs.length) ∧ byteAt s (a + BitVec.ofNat 16 cs.length) = stringEnd

theorem stringFrom_tail {s : State} {a : Word} {c : Byte} {cs : List Byte} (h : StringFrom s a (c :: cs)) :
    StringFrom s (a + 1) cs := by
  obtain ⟨hcs, hin, hend⟩ := h
  refine ⟨fun k hk => ?_, ?_, ?_⟩ <;> rw [add_one_add_ofNat]
  · exact hcs (k + 1) (Nat.succ_lt_succ hk)
  · exact hin
  · exact hend

theorem stringAt_of_stringFrom {s : State} {start a : Word} {fuel : Nat} {cs : List Byte} (hfuel : cs.length < fuel)
    (h : StringFrom s a cs) : stringAt s start fuel a = .next cs := by
  induction cs generalizing a fuel with
  | nil =>
    obtain ⟨fuel, rfl⟩ := Nat.exists_eq_succ_of_ne_zero (Nat.ne_zero_of_lt hfuel)
    obtain ⟨-, hin, hend⟩ := h
    rw [List.length_nil, BitVec.add_zero] at hin hend
    rw [stringAt, read8_of_lt hin, andThen_ok, if_pos hend]
  | cons c cs ih =>
    obtain ⟨fuel, rfl⟩ := Nat.exists_eq_succ_of_ne_zero (Nat.ne_zero_of_lt hfuel)
    obtain ⟨hin, hc, hne⟩ := h.1 0 (Nat.succ_pos _)
    rw [BitVec.add_zero] at hin hc hne
    obtain rfl : c = byteAt s a := Option.some.inj hc
    rw [stringAt, read8_of_lt hin, andThen_ok, if_neg hne, ih (Nat.lt_of_succ_lt_succ hfuel) (stringFrom_tail h),
      andThen_ok]

theorem harnessPrint_next {s : State} {cs : List Byte}
    (h : (s.reg .c = 9 ∧ cs.length < 65536 ∧ StringFrom s (s.pair .de) cs) ∨
      (s.reg .c = 2 ∧ cs = [s.reg .e]) ∨ (s.reg .c ≠ 9 ∧ s.reg .c ≠ 2 ∧ cs = [])) :
    harnessPrint s = .next cs := by
  obtain ⟨h9, hlen, hstring⟩ | ⟨h2, rfl⟩ | ⟨h9, h2, rfl⟩ := h
  · rw [harnessPrint_string h9, stringAt_of_stringFrom hlen hstring]
  · exact harnessPrint_char h2
  · exact harnessPrint_other h9 h2

/-! The end of the run is the harness's own, at PC = 0x0000 only. -/

theorem not_outsideFault_harnessEnd (n : Nat) : ¬OutsideFault n .harnessEnd := by
  rintro ⟨a, h, -⟩
  cases h

theorem stringAt_ne_harnessEnd (s : State) (start : Word) (fuel : Nat) (a : Word) :
    stringAt s start fuel a ≠ .fault .harnessEnd := by
  induction fuel generalizing a with
  | zero => nofun
  | succ fuel ih =>
    intro h
    obtain h | ⟨c, -, h⟩ := andThen_fault.1 h
    · exact not_outsideFault_harnessEnd _ (completes_fault (completes_read8 s a) h)
    · split at h
      · cases h
      · obtain h | ⟨_, -, h⟩ := andThen_fault.1 h
        · exact ih _ h
        · cases h

theorem harnessPrint_ne_harnessEnd (s : State) : harnessPrint s ≠ .fault .harnessEnd := by
  unfold harnessPrint
  split
  · exact stringAt_ne_harnessEnd s _ _ _
  · nofun
  · nofun

theorem intercept_ne_harnessEnd (s : State) : intercept s ≠ .fault .harnessEnd := by
  intro h
  obtain h | ⟨cs, -, h⟩ := andThen_fault.1 h
  · exact harnessPrint_ne_harnessEnd s h
  · obtain h | ⟨t, -, h⟩ := andThen_fault.1 h
    · exact not_outsideFault_harnessEnd _ (completes_fault (completes_return (i := .ret) rfl) h)
    · cases h

theorem pc_of_harnessStep_end {s : State} (h : harnessStep s = .fault .harnessEnd) : s.pc = 0 := by
  unfold harnessStep at h
  split at h
  · exact absurd h (intercept_ne_harnessEnd s)
  · split at h
    · next h0 => exact h0
    · split at h
      · cases h
      · cases h
      · next hf => cases h; exact absurd (cpuStep_fault hf) (not_outsideFault_harnessEnd _)
      · cases h

theorem step_of_harness {s : State} (h : s.cfg.runner = .harness) : step s = harnessStep s := by
  simp only [step, machineStep, h]

theorem harnessStep_end {s : State} (h : s.pc = 0) : harnessStep s = .fault .harnessEnd := by
  have h5 : s.pc ≠ bdosEntry := by rw [h]; decide
  rw [harnessStep, if_neg h5, if_pos h]

/-- An intercepted call prints and returns (R264). -/
theorem harnessStep_intercepted {s : State} {cs : List Byte} (hpc : s.pc = bdosEntry) (hin : WordInRange s s.sp)
    (hprint : harnessPrint s = .next cs) :
    harnessStep s =
      .next { s with pc := wordAt s s.sp, sp := s.sp + 2, events := s.events ++ cs.map .print } := by
  rw [harnessStep, if_pos hpc, intercept, hprint, andThen_ok, returnFromCall, pop16_of_wordInRange hin]
  rfl

/-! The verdict on a run. -/

theorem reaches_head {s t u : State} (hst : step s = .next t) (htu : Reaches t u) : Reaches s u := by
  induction htu with
  | refl => exact .step .refl hst
  | step _ hs ih => exact .step ih hs

theorem reaches_cfg {s t : State} (h : Reaches s t) : t.cfg = s.cfg :=
  reaches_induction (P := fun t => t.cfg = s.cfg) rfl (fun _ _ ht hs => (recordGrows_of_step hs).2.1.trans ht) h

theorem passesWith_of_reaches {s t : State} {banner : List Byte} (hst : Reaches s t) (h : PassesWith banner t) :
    PassesWith banner s := by
  induction hst with
  | refl => exact h
  | step _ hs ih =>
    obtain ⟨n, hn⟩ := h
    exact ih ⟨n + 1, (runVerdict_succ_of_next hs n).trans hn⟩

/-- A run passes exactly when it reaches its normal end with the banner printed. -/
theorem passesWith_iff (banner : List Byte) (s : State) :
    PassesWith banner s ↔ ∃ t, Reaches s t ∧ step t = .fault .harnessEnd ∧ t.printed = banner := by
  constructor
  · rintro ⟨n, hn⟩
    induction n generalizing s with
    | zero => cases hn
    | succ n ih =>
      obtain ⟨t, hs, hn⟩ | ⟨hend, hprinted⟩ := runVerdict_succ_ended.1 hn
      · obtain ⟨u, hu, hend⟩ := ih t hn
        exact ⟨u, reaches_head hs hu, hend⟩
      · exact ⟨s, .refl, hend, hprinted⟩
  · rintro ⟨t, hst, hend, hprinted⟩
    exact passesWith_of_reaches hst ⟨1, runVerdict_succ_ended.2 (.inr ⟨hend, hprinted⟩)⟩

end Sys2Proof.Machine
end

section
namespace Sys2Proof.Proofs

open Sys2Proof.Machine Sys2Proof.Spec

/-- Settles O60: no operation but the harness's own test of PC ends a run, and an intercepted call is a print and a
return. -/
theorem harnessInterceptsAndEnds : Obligations.HarnessInterceptsAndEnds := by
  refine fun s hrunner => ⟨fun banner => ?passes, fun hpc => ?ends, fun hpc hin cs hprint => ?intercepts⟩
  case passes =>
    rw [passesWith_iff]
    refine exists_congr fun t => and_congr_right fun hst => ⟨fun ⟨hend, hprinted⟩ => ⟨?_, hend, hprinted⟩, And.right⟩
    have ht : t.cfg.runner = .harness := by rw [reaches_cfg hst, hrunner]
    exact pc_of_harnessStep_end ((step_of_harness ht).symm.trans hend)
  case ends => rw [step_of_harness hrunner, harnessStep_end hpc]
  case intercepts =>
    rw [step_of_harness hrunner, harnessStep_intercepted hpc hin (harnessPrint_next hprint)]
    exact ⟨_, rfl, wordAt_toNat .., rfl⟩

end Sys2Proof.Proofs
end

/-! ### Subtraction, comparison, increment and decrement (41_arithmetic.md R121, R122, R129 to R141) -/

section
namespace Sys2Proof.Machine

open Sys2Proof.Spec

theorem acOfBorrow_subAc (mode : AcMode) {hb : Bool} {p : Prop} (h : hb = true ↔ p) :
    AcOfBorrow mode p (subAc mode hb) := by
  cases mode with
  | source => exact h
  | intel => exact (Bool.not_eq_true' hb).to_iff.trans (Bool.not_eq_true hb).symm.to_iff |>.trans (not_congr h)

theorem sub_sub_toNat (a n : Byte) (cin : Bool) :
    (a - n - BitVec.ofNat 8 cin.toNat).toNat = (a.toNat + 512 - n.toNat - cin.toNat) % 256 := by
  have ha := a.isLt
  have hn := n.isLt
  have hc := cin.toNat_lt
  simp only [BitVec.toNat_sub, BitVec.toNat_ofNat]
  omega

/-- A difference is read from right to left as a sum: its borrow out of bit 3 is the carry of `r + n + cin`. -/
theorem xorRule_difference (a n : Byte) (cin : Bool) :
    XorRule a n (a - n - BitVec.ofNat 8 cin.toNat) ↔ a.toNat % 16 < n.toNat % 16 + cin.toNat := by
  have hr := sub_sub_toNat a n cin
  generalize a - n - BitVec.ofNat 8 cin.toNat = r at hr ⊢
  have ha := a.isLt
  have hn := n.isLt
  have hc := cin.toNat_lt
  have hsum : BitVec.ofNat 8 (r.toNat + n.toNat + cin.toNat) = a := by
    apply BitVec.eq_of_toNat_eq
    rw [BitVec.toNat_ofNat]
    omega
  have hswap : XorRule a n r ↔ XorRule r n a := by
    rw [XorRule, XorRule, show a ^^^ n ^^^ r = r ^^^ n ^^^ a by ac_rfl]
  have hcarry := xorRule_sum r n cin
  rw [hsum] at hcarry
  rw [hswap, hcarry]
  omega

/-- The flags of SUB, SBB and CMP, whatever the instruction does with the result. -/
theorem subFlags_of_subCore {s t : State} {n : Byte} {cin : Bool}
    (hflags : t.flags = (subCore s.cfg.acSubMode (s.reg .a) n cin s.flags).2) :
    SubFlags n cin (s.reg .a - n - BitVec.ofNat 8 cin.toNat) s t := by
  have hac := halfCarry_iff (s.reg .a) n (s.reg .a - n - BitVec.ofNat 8 cin.toNat)
  constructor <;> rw [hflags]
  case szp => exact szpOf_szp ..
  case cy => exact decide_eq_true_iff
  case acXor => exact acOfBorrow_subAc _ hac
  case acNibble => exact acOfBorrow_subAc _ (hac.trans (xorRule_difference ..))

/-- SUB, SUI, SBB and SBI differ in operand, borrow in and length only. -/
theorem accumulatorSub_subResult (s : State) (len : Nat) (n : Byte) (cin : Bool) :
    SubResult len n cin s ((accumulatorSub n cin s).advance len) := by
  have ha : ((accumulatorSub n cin s).advance len).reg .a = s.reg .a - n - BitVec.ofNat 8 cin.toNat :=
    setReg_reg_same s .a _
  constructor
  case a => rw [ha, sub_sub_toNat]
  case flags => rw [ha]; exact subFlags_of_subCore rfl
  case form => exact registerForm_setRegs_setFlags len _ _ (sameRegsBut_setReg s .a _)

theorem accumulatorCompare_compareResult (s : State) (len : Nat) (n : Byte) :
    CompareResult len n s ((accumulatorCompare n s).advance len) := by
  have ha := (s.reg .a).isLt
  have hn := n.isLt
  have hdiff : BitVec.ofNat 8 ((s.reg .a).toNat + 256 - n.toNat) = s.reg .a - n - BitVec.ofNat 8 false.toNat := by
    apply BitVec.eq_of_toNat_eq
    rw [sub_sub_toNat, BitVec.toNat_ofNat, Bool.toNat_false]
    omega
  have hflags : SubFlags n false (BitVec.ofNat 8 ((s.reg .a).toNat + 256 - n.toNat)) s
      ((accumulatorCompare n s).advance len) := by
    rw [hdiff]; exact subFlags_of_subCore rfl
  refine ⟨hflags, ?_, registerForm_setRegs_setFlags len s.regs _ fun _ _ => rfl⟩
  obtain ⟨-, hz, -⟩ := hflags.szp
  rw [hz, BitVec.toNat_ofNat, ← BitVec.toNat_inj]
  omega

theorem incFlags_of_incCore {s t : State} {v : Byte} (hflags : t.flags = (incCore v s.flags).2) :
    IncFlags v (v + 1) s t := by
  have hac := halfCarry_iff v 1#8 (v + 1)
  have hnibble : XorRule v 1#8 (v + 1) ↔ v.toNat % 16 = 15 := by
    have hsum : BitVec.ofNat 8 (v.toNat + (1#8).toNat + false.toNat) = v + 1 := by
      apply BitVec.eq_of_toNat_eq
      rw [BitVec.toNat_ofNat, BitVec.toNat_add]
      rfl
    rw [← hsum, xorRule_sum, Bool.toNat_false, show (1#8).toNat = 1 from rfl]
    omega
  refine ⟨BitVec.toNat_add .., ?szp, ?ac, ?acXor, ?cy⟩ <;> rw [hflags]
  case szp => exact szpOf_szp s.flags (v + 1) _ s.flags.cy
  case ac => exact hac.trans hnibble
  case acXor => exact hac
  case cy => rfl

theorem decFlags_of_decCore {s t : State} {v : Byte} (hflags : t.flags = (decCore s.cfg.acSubMode v s.flags).2) :
    DecFlags v (v - 1) s t := by
  have hac := halfCarry_iff v 1#8 (v - 1)
  have hnibble : XorRule v 1#8 (v - 1) ↔ v.toNat % 16 = 0 := by
    have hdiff : v - 1#8 - BitVec.ofNat 8 false.toNat = v - 1 := BitVec.sub_zero _
    rw [← hdiff, xorRule_difference, Bool.toNat_false, show (1#8).toNat = 1 from rfl]
    omega
  have hvalue : (v - 1).toNat = (v.toNat + 255) % 256 := by
    rw [BitVec.toNat_sub, Nat.add_comm]
    rfl
  refine ⟨hvalue, ?szp, ?ac, ?acXor, ?cy⟩ <;> rw [hflags]
  case szp => exact szpOf_szp s.flags (v - 1) _ s.flags.cy
  case ac => exact acOfBorrow_subAc _ (hac.trans hnibble)
  case acXor => exact acOfBorrow_subAc _ hac
  case cy => rfl

/-- INR M and DCR M: M is read, and then the result and its flags are written. `P` is told the old byte, the new one and
the state after it. -/
theorem update_operandM {s : State} {i : Instr} {core : Byte → Byte × Flags} {P : Byte → Byte → State → Prop}
    (hwf : s.mem.wf = true)
    (hexec : exec i s = andThen (readM s) fun v =>
      andThen (writeM (core v).1 s) fun t => .next ((t.setFlags (core v).2).advance 1))
    (h : ∀ v t, t.flags = (core v).2 → P v (core v).1 t) :
    (InRange s s.hl → ∃ t, exec i s = .next t ∧ P (byteAt s s.hl) (byteAt t s.hl) t ∧ StoreForm 1 [s.hl] s t) ∧
      ByteFault s s.hl (exec i s) := by
  rw [hexec]
  refine ⟨fun hin => ?_, byteFault_read8 s s.hl _⟩
  have hbyte := byteAt_stored_same hwf s.hl (core (byteAt s s.hl)).1
  refine ⟨((stored s s.hl (core (byteAt s s.hl)).1).setFlags (core (byteAt s s.hl)).2).advance 1, ?_, ?_, ?_⟩
  · rw [readM, read8_of_lt hin, andThen_ok, writeM, write8_of_lt _ hin, andThen_ok]
  · exact hbyte.symm ▸ h _ _ rfl
  · exact ⟨rfl, rfl, fun _ _ => rfl, sameMemBut_stored hwf _ _, sameRest_update ..⟩

/-- INR r and DCR r. -/
theorem update_register {s : State} {i : Instr} {r : Reg} {v : Byte} {f : Flags} {P : Byte → State → Prop}
    (hexec : exec i s = .next (((s.setReg r v).setFlags f).advance 1)) (h : ∀ t, t.flags = f → P v t) :
    ∃ t, exec i s = .next t ∧ P (t.reg r) t ∧ RegisterForm 1 [r] s t :=
  ⟨_, hexec, (setReg_reg_same s r v).symm ▸ h _ rfl, registerForm_setRegs_setFlags 1 _ f (sameRegsBut_setReg s r v)⟩

end Sys2Proof.Machine
end

section
namespace Sys2Proof.Proofs

open Sys2Proof.Machine Sys2Proof.Spec

/-- Settles O22: every form is `accumulatorSub` and an advance, and the M forms read the byte at HL first. -/
theorem subtractionsGiveDifferenceAndFlags : Obligations.SubtractionsGiveDifferenceAndFlags := by
  refine ⟨fun r => encoded_of_encode rfl ?subBytes, encoded_of_encode rfl rfl, fun _ => encoded_of_encode rfl rfl,
    fun r => encoded_of_encode rfl ?sbbBytes, encoded_of_encode rfl rfl, fun _ => encoded_of_encode rfl rfl, fun s => ?_⟩
  case subBytes => cases r <;> rfl
  case sbbBytes => cases r <;> rfl
  have hresult := accumulatorSub_subResult s
  obtain ⟨hsubM, hsubFault⟩ := read_operandM (s := s) (i := .subM) rfl fun n => hresult 1 n false
  obtain ⟨hsbbM, hsbbFault⟩ := read_operandM (s := s) (i := .sbbM) rfl fun n => hresult 1 n s.flags.cy
  exact ⟨fun _ => ⟨_, rfl, hresult ..⟩, fun _ => ⟨_, rfl, hresult ..⟩, fun _ => ⟨_, rfl, hresult ..⟩,
    fun _ => ⟨_, rfl, hresult ..⟩, hsubM, hsubFault, hsbbM, hsbbFault⟩

/-- Settles O23: every form is `accumulatorCompare` and an advance, and the M form reads the byte at HL first. -/
theorem comparesSetFlagsOnly : Obligations.ComparesSetFlagsOnly := by
  refine ⟨fun r => encoded_of_encode rfl ?bytes, encoded_of_encode rfl rfl, fun _ => encoded_of_encode rfl rfl,
    fun s => ?_⟩
  case bytes => cases r <;> rfl
  have hresult := accumulatorCompare_compareResult s
  exact ⟨fun _ => ⟨_, rfl, hresult ..⟩, fun _ => ⟨_, rfl, hresult ..⟩, read_operandM (i := .cmpM) rfl (hresult 1)⟩

/-- Settles O24: the register forms are each one `update_register`, the M forms one `update_operandM`. -/
theorem incrementsKeepCarry : Obligations.IncrementsKeepCarry := by
  refine ⟨fun r => encoded_of_encode rfl ?inrBytes, encoded_of_encode rfl rfl,
    fun r => encoded_of_encode rfl ?dcrBytes, encoded_of_encode rfl rfl, fun s hwf => ?_⟩
  case inrBytes => cases r <;> rfl
  case dcrBytes => cases r <;> rfl
  obtain ⟨hinrM, hinrFault⟩ := update_operandM (i := .inrM) (core := fun v => incCore v s.flags)
    (P := fun v r t => IncFlags v r s t) hwf rfl fun _ _ => incFlags_of_incCore
  obtain ⟨hdcrM, hdcrFault⟩ := update_operandM (i := .dcrM) (core := fun v => decCore s.cfg.acSubMode v s.flags)
    (P := fun v r t => DecFlags v r s t) hwf rfl fun _ _ => decFlags_of_decCore
  exact ⟨fun r => update_register (P := fun v t => IncFlags (s.reg r) v s t) rfl fun _ => incFlags_of_incCore,
    fun r => update_register (P := fun v t => DecFlags (s.reg r) v s t) rfl fun _ => decFlags_of_decCore, hinrM, hinrFault, hdcrM, hdcrFault⟩

end Sys2Proof.Proofs
end

/-! ### Decimal adjust (41_arithmetic.md R145) -/

section
namespace Sys2Proof.Machine

open Sys2Proof.Spec

theorem daaHigh_iff (a : Byte) (f : Flags) :
    daaHigh a f = true ↔ a.toNat / 16 > 9 ∨ f.cy = true ∨ (a.toNat / 16 = 9 ∧ a.toNat % 16 > 9) := by
  simp [daaHigh, or_assoc]

theorem daaLow_iff (a : Byte) (f : Flags) : daaLow a f = true ↔ a.toNat % 16 > 9 ∨ f.ac = true := by
  simp [daaLow]

theorem daaCorrection_toNat (a : Byte) (f : Flags) :
    (daaCorrection a f).toNat =
      (if a.toNat % 16 > 9 ∨ f.ac = true then 6 else 0) + (if daaHigh a f = true then 96 else 0) := by
  simp only [← daaLow_iff, daaCorrection]
  cases daaLow a f <;> cases daaHigh a f <;> rfl

/-- The carry of the addition of the correction is never set without the high step (R145's inference on CY). -/
theorem daaHigh_of_carry {a : Byte} {f : Flags} (h : a.toNat + (daaCorrection a f).toNat > 255) :
    daaHigh a f = true := by
  by_contra hhigh
  rw [daaCorrection_toNat, if_neg hhigh] at h
  rw [daaHigh_iff] at hhigh
  split at h <;> omega

/-- What DAA answers, told by `AddResult` of the correction but for CY. -/
theorem decimalAdjust_result (s : State) :
    AddResult 1 (daaCorrection (s.reg .a) s.flags) false s
      ((accumulatorAdd (daaCorrection (s.reg .a) s.flags) false s).advance 1) ∧
    (decimalAdjust s).advance 1 =
      ((accumulatorAdd (daaCorrection (s.reg .a) s.flags) false s).advance 1).setFlags
        { (accumulatorAdd (daaCorrection (s.reg .a) s.flags) false s).flags with cy := daaHigh (s.reg .a) s.flags } := by
  have hsum := accumulatorAdd_addResult s 1 (daaCorrection (s.reg .a) s.flags) false
  have hcy : (daaHigh (s.reg .a) s.flags ||
      (accumulatorAdd (daaCorrection (s.reg .a) s.flags) false s).flags.cy) = daaHigh (s.reg .a) s.flags :=
    Bool.or_eq_left_iff_imp.2 fun h => daaHigh_of_carry (hsum.cy.1 h)
  refine ⟨hsum, ?_⟩
  rw [decimalAdjust, hcy]
  rfl

/-! The decimal sum: `hi` and `lo` are the sums of the tens and of the units, `lo` with the carry in. -/

/-- The low step of DAA is taken exactly when the units carry. -/
theorem low_step_iff {hi lo a : Nat} (hlo : lo ≤ 19) (ha : a = (16 * hi + lo) % 256) :
    (a % 16 > 9 ∨ lo > 15) ↔ 10 ≤ lo := by omega

/-- The high step of DAA is taken exactly when the decimal sum is 100 or more. -/
theorem high_step_iff {hi lo a : Nat} (hhi : hi ≤ 18) (hlo : lo ≤ 19) (ha : a = (16 * hi + lo) % 256) :
    (a / 16 > 9 ∨ 16 * hi + lo > 255 ∨ (a / 16 = 9 ∧ a % 16 > 9)) ↔ 100 ≤ 10 * hi + lo := by omega

/-- With the units carry `c` and the tens carry `C`, six in the low nibble and six in the high one for each make the
decimal digits of the sum and 256 for `C`. -/
theorem adjusted_digits {hi lo : Nat} (hhi : hi ≤ 18) (hlo : lo ≤ 19) :
    ((16 * hi + lo) % 256 + ((if 10 ≤ lo then 6 else 0) + if 100 ≤ 10 * hi + lo then 96 else 0)) % 256 =
      (10 * hi + lo) % 100 / 10 * 16 + (10 * hi + lo) % 100 % 10 := by
  have hunits : (10 * hi + lo) % 100 % 10 = lo % 10 := by omega
  have htens : (10 * hi + lo) % 100 / 10 = (hi + lo / 10) % 10 := by omega
  have hlow : (if 10 ≤ lo then 6 else 0) = 6 * (lo / 10) := by split <;> omega
  have hhigh : (if 100 ≤ 10 * hi + lo then 96 else 0) = 96 * ((hi + lo / 10) / 10) := by split <;> omega
  have hsum : 16 * hi + lo + (6 * (lo / 10) + 96 * ((hi + lo / 10) / 10)) =
      256 * ((hi + lo / 10) / 10) + ((hi + lo / 10) % 10 * 16 + lo % 10) := by omega
  rw [hunits, htens, hlow, hhigh, Nat.mod_add_mod, hsum, Nat.mul_add_mod]
  omega

theorem bcd_toNat {x : Nat} (h : x < 100) : (bcd x).toNat = x / 10 * 16 + x % 10 := by
  rw [bcd, BitVec.toNat_ofNat]
  omega

end Sys2Proof.Machine
end

section
namespace Sys2Proof.Proofs

open Sys2Proof.Machine Sys2Proof.Spec

/-- Settles O27: DAA is one addition of the correction, whose carry is part of the high step. -/
theorem daaAddsCorrection : Obligations.DaaAddsCorrection := by
  refine ⟨encoded_of_encode rfl rfl, fun s => ?_⟩
  obtain ⟨hsum, hadjust⟩ := decimalAdjust_result s
  refine ⟨_, _, _, congrArg Host.Outcome.next hadjust, daaHigh_iff .., daaCorrection_toNat .., hsum.a, hsum.szp, rfl,
    hsum.acNibble, ?_⟩
  exact ⟨hsum.form.pc, hsum.form.sp, hsum.form.regs, hsum.form.mem, sameRest_update ..⟩

/-- Settles O28: in each decimal place a digit sum above 9 is what the nibble, AC or CY shows, and the correction carries
it on. -/
theorem daaGivesDecimalSum : Obligations.DaaGivesDecimalSum := by
  intro s r x y hx hy ha hr
  obtain ⟨t, hadc, hta, -, htcy, -, htac, -⟩ :
      ∃ t, exec (.adcR r) s = .next t ∧ AddResult 1 (s.reg r) s.flags.cy s t := ⟨_, rfl, accumulatorAdd_addResult ..⟩
  obtain ⟨u, corr, hic, hdaa, hhic, hcorr, hua, -, hucy, -, -⟩ := daaAddsCorrection.2 t
  obtain ⟨hi, hhi⟩ : ∃ hi, hi = x / 10 + y / 10 := ⟨_, rfl⟩
  obtain ⟨lo, hlo⟩ : ∃ lo, lo = x % 10 + y % 10 + s.flags.cy.toNat := ⟨_, rfl⟩
  have hc := s.flags.cy.toNat_lt
  have hi_le : hi ≤ 18 := by omega
  have lo_le : lo ≤ 19 := by omega
  have hsum : x + y + s.flags.cy.toNat = 10 * hi + lo := by omega
  have hbytes : x / 10 * 16 + x % 10 + (y / 10 * 16 + y % 10) + s.flags.cy.toNat = 16 * hi + lo := by omega
  have hnibbles : (x / 10 * 16 + x % 10) % 16 + (y / 10 * 16 + y % 10) % 16 + s.flags.cy.toNat = lo := by omega
  rw [ha, hr, bcd_toNat hx, bcd_toNat hy] at hta htcy htac
  rw [hbytes] at hta htcy
  rw [hnibbles] at htac
  rw [htcy, high_step_iff hi_le lo_le hta] at hhic
  simp only [htac, low_step_iff lo_le hta, hhic] at hcorr
  refine ⟨t, u, hadc, hdaa, ?_, by rw [hucy, hhic, hsum]⟩
  apply BitVec.eq_of_toNat_eq
  rw [bcd_toNat (Nat.mod_lt _ (by decide)), hua, hcorr, hta, hsum, adjusted_digits hi_le lo_le]

end Sys2Proof.Proofs
end

/-! ### Logical operations, and rotates by a full turn (42_logical_rotate.md R160 to R173) -/

section
namespace Sys2Proof.Machine

open Sys2Proof.Spec

/-- ANA, XRA, ORA and their immediate forms differ in operation, operand and length only. -/
theorem logic_logicResult (s : State) (len : Nat) (op : LogicOp) (n : Byte) {ac : Prop}
    (hac : logicAc s.cfg.acAnaMode op (s.reg .a) n = true ↔ ac) :
    LogicResult len (op.apply (s.reg .a) n) ac s ((logic op n s).advance len) where
  a := setReg_reg_same s .a _
  szp := szpOf_szp ..
  cy := rfl
  ac := hac
  form := registerForm_setRegs_setFlags len _ _ (sameRegsBut_setReg s .a _)

theorem logicAc_and (s : State) (n : Byte) :
    logicAc s.cfg.acAnaMode .and (s.reg .a) n = true ↔ AnaAc s n := by
  unfold AnaAc
  cases s.cfg.acAnaMode with
  | source => exact Bool.false_eq_true.to_iff
  | intel => exact Iff.rfl

theorem logicAc_xor (mode : AcMode) (a n : Byte) : logicAc mode .xor a n = true ↔ False := Bool.false_eq_true.to_iff

theorem logicAc_or (mode : AcMode) (a n : Byte) : logicAc mode .or a n = true ↔ False := Bool.false_eq_true.to_iff

/-! A rotate as a permutation of bits. -/

theorem getLsbD_shiftInLow (a : Byte) (bit : Bool) {j : Nat} (hj : j < 8) :
    (shiftInLow a bit).getLsbD j = if j = 0 then bit else a.getLsbD (j - 1) := by
  rw [shiftInLow, BitVec.getLsbD_or, BitVec.getLsbD_shiftLeft, BitVec.getLsbD_eq_getElem (x := bitAt 0 bit) hj,
    getElem_bitAt]
  by_cases h : j = 0 <;> simp [h, hj]

theorem getLsbD_shiftInHigh (a : Byte) (bit : Bool) {j : Nat} (hj : j < 8) :
    (shiftInHigh a bit).getLsbD j = if j = 7 then bit else a.getLsbD (j + 1) := by
  rw [shiftInHigh, BitVec.getLsbD_or, BitVec.getLsbD_ushiftRight, BitVec.getLsbD_eq_getElem (x := bitAt 7 bit) hj,
    getElem_bitAt, Nat.add_comm]
  by_cases h : j = 7 <;> simp [h]

/-- If `g` moves bit `j + d` of `w` to bit `j`, then `n` turns of it move bit `j + n * d` there. -/
theorem bit_iterate {α : Type} {bit : α → Nat → Bool} {g : α → α} {w d : Nat}
    (hg : ∀ x j, j < w → bit (g x) j = bit x ((j + d) % w)) (n : Nat) (x : α) {j : Nat} (hj : j < w) :
    bit (g^[n] x) j = bit x ((j + n * d) % w) := by
  induction n generalizing x with
  | zero => rw [Function.iterate_zero_apply, Nat.zero_mul, Nat.add_zero, Nat.mod_eq_of_lt hj]
  | succ n ih =>
    rw [Function.iterate_succ_apply, ih, hg _ _ (Nat.mod_lt _ (Nat.zero_lt_of_lt hj)), Nat.mod_add_mod, Nat.add_assoc,
      ← Nat.succ_mul]

/-! What the rotates make of A and CY: `execTimes_rotate` ties these to the instructions. -/

/-- RLC (R170). -/
def rlcTurn (x : Byte × Bool) : Byte × Bool := (shiftInLow x.1 (x.1.getLsbD 7), x.1.getLsbD 7)

/-- RRC (R171). -/
def rrcTurn (x : Byte × Bool) : Byte × Bool := (shiftInHigh x.1 (x.1.getLsbD 0), x.1.getLsbD 0)

/-- RAL (R172). -/
def ralTurn (x : Byte × Bool) : Byte × Bool := (shiftInLow x.1 x.2, x.1.getLsbD 7)

/-- RAR (R173). -/
def rarTurn (x : Byte × Bool) : Byte × Bool := (shiftInHigh x.1 x.2, x.1.getLsbD 0)

/-- A with CY as its bit 8. -/
def carryBit (x : Byte × Bool) (j : Nat) : Bool := if j = 8 then x.2 else x.1.getLsbD j

theorem rlcTurn_bit (x : Byte × Bool) (j : Nat) (hj : j < 8) :
    (rlcTurn x).1.getLsbD j = x.1.getLsbD ((j + 7) % 8) := by
  rw [rlcTurn, getLsbD_shiftInLow _ _ hj]
  split
  · next h => rw [h]
  · next h => rw [show (j + 7) % 8 = j - 1 by omega]

theorem rrcTurn_bit (x : Byte × Bool) (j : Nat) (hj : j < 8) :
    (rrcTurn x).1.getLsbD j = x.1.getLsbD ((j + 1) % 8) := by
  rw [rrcTurn, getLsbD_shiftInHigh _ _ hj]
  split
  · next h => rw [h]
  · next h => rw [show (j + 1) % 8 = j + 1 by omega]

theorem ralTurn_bit (x : Byte × Bool) (j : Nat) (hj : j < 9) : carryBit (ralTurn x) j = carryBit x ((j + 8) % 9) := by
  unfold carryBit ralTurn
  by_cases h8 : j = 8
  · rw [h8]; rfl
  · rw [if_neg h8, getLsbD_shiftInLow _ _ (by omega)]
    by_cases h0 : j = 0
    · rw [h0]; rfl
    · rw [if_neg h0, show (j + 8) % 9 = j - 1 by omega, if_neg (by omega)]

theorem rarTurn_bit (x : Byte × Bool) (j : Nat) (hj : j < 9) : carryBit (rarTurn x) j = carryBit x ((j + 1) % 9) := by
  unfold carryBit rarTurn
  by_cases h8 : j = 8
  · rw [h8]; rfl
  · rw [if_neg h8, getLsbD_shiftInHigh _ _ (by omega)]
    by_cases h7 : j = 7
    · rw [h7]; rfl
    · rw [if_neg h7, show (j + 1) % 9 = j + 1 by omega, if_neg (by omega)]

theorem eq_of_carryBit {x y : Byte × Bool} (h : ∀ j, j < 9 → carryBit x j = carryBit y j) : x = y := by
  refine Prod.ext (BitVec.eq_of_getLsbD_eq fun j hj => ?_) (h 8 (by decide))
  have hbit := h j (by omega)
  rwa [carryBit, carryBit, if_neg (by omega), if_neg (by omega)] at hbit

theorem rlcTurn_eight (x : Byte × Bool) : rlcTurn^[8] x = (x.1, x.1.getLsbD 0) := by
  have ha : (rlcTurn^[8] x).1 = x.1 := BitVec.eq_of_getLsbD_eq fun j hj => by
    rw [bit_iterate (bit := fun x j => x.1.getLsbD j) rlcTurn_bit 8 x hj, show (j + 8 * 7) % 8 = j by omega]
  refine Prod.ext ha ?_
  rw [← ha, Function.iterate_succ_apply', rlcTurn, getLsbD_shiftInLow _ _ (by decide), if_pos rfl]

theorem rrcTurn_eight (x : Byte × Bool) : rrcTurn^[8] x = (x.1, x.1.getLsbD 7) := by
  have ha : (rrcTurn^[8] x).1 = x.1 := BitVec.eq_of_getLsbD_eq fun j hj => by
    rw [bit_iterate (bit := fun x j => x.1.getLsbD j) rrcTurn_bit 8 x hj, show (j + 8 * 1) % 8 = j by omega]
  refine Prod.ext ha ?_
  rw [← ha, Function.iterate_succ_apply', rrcTurn, getLsbD_shiftInHigh _ _ (by decide), if_pos rfl]

theorem ralTurn_nine (x : Byte × Bool) : ralTurn^[9] x = x := eq_of_carryBit fun j hj => by
  rw [bit_iterate ralTurn_bit 9 x hj, show (j + 9 * 8) % 9 = j by omega]

theorem rarTurn_nine (x : Byte × Bool) : rarTurn^[9] x = x := eq_of_carryBit fun j hj => by
  rw [bit_iterate rarTurn_bit 9 x hj, show (j + 9 * 1) % 9 = j by omega]

/-! Runs of one rotate. -/

/-- The state after rotates that leave `x` in A and CY. -/
def turned (x : Byte × Bool) (s : State) : State := rotated x.1 x.2 s

theorem turned_self (s : State) : turned (s.reg .a, s.flags.cy) s = s := by
  have hregs : s.regs.set .a (s.reg .a) = s.regs := set_get_same s.regs .a
  unfold turned rotated State.setReg
  rw [hregs]
  rfl

theorem advance_advance (s : State) (m n : Nat) : (s.advance m).advance n = s.advance (m + n) := by
  simp only [State.advance, State.setPc, State.nextPc, BitVec.add_assoc, BitVec.ofNat_add]

theorem turned_advance_turned (x y : Byte × Bool) (len : Nat) (s : State) :
    turned y ((turned x s).advance len) = (turned y s).advance len := rfl

theorem execTimes_rotate {i : Instr} {turn : Byte × Bool → Byte × Bool}
    (hexec : ∀ s, exec i s = .next ((turned (turn (s.reg .a, s.flags.cy)) s).advance 1)) (n : Nat) (s : State) :
    execTimes i n s = .next ((turned (turn^[n] (s.reg .a, s.flags.cy)) s).advance n) := by
  induction n generalizing s with
  | zero =>
    have hpc : s.advance 0 = s := by simp [State.advance, State.setPc, State.nextPc]
    rw [Function.iterate_zero_apply, turned_self, hpc, execTimes]
  | succ n ih =>
    have hnext : (((turned (turn (s.reg .a, s.flags.cy)) s).advance 1).reg .a,
        ((turned (turn (s.reg .a, s.flags.cy)) s).advance 1).flags.cy) = turn (s.reg .a, s.flags.cy) := rfl
    simp only [execTimes, hexec, ih]
    rw [hnext, turned_advance_turned, advance_advance, Nat.add_comm 1, Function.iterate_succ_apply]

end Sys2Proof.Machine
end

section
namespace Sys2Proof.Proofs

open Sys2Proof.Machine Sys2Proof.Spec

/-- Settles O29: every form is `logic` and an advance, and the M forms read the byte at HL first. -/
theorem logicalOperationsClearCarry : Obligations.LogicalOperationsClearCarry := by
  refine ⟨fun r => encoded_of_encode rfl ?anaBytes, encoded_of_encode rfl rfl, fun _ => encoded_of_encode rfl rfl,
    fun r => encoded_of_encode rfl ?xraBytes, encoded_of_encode rfl rfl, fun _ => encoded_of_encode rfl rfl,
    fun r => encoded_of_encode rfl ?oraBytes, encoded_of_encode rfl rfl, fun _ => encoded_of_encode rfl rfl, fun s => ?_⟩
  case anaBytes => cases r <;> rfl
  case xraBytes => cases r <;> rfl
  case oraBytes => cases r <;> rfl
  have hand (len : Nat) (n : Byte) := logic_logicResult s len .and n (logicAc_and s n)
  have hxor (len : Nat) (n : Byte) := logic_logicResult s len .xor n (logicAc_xor _ _ n)
  have hor (len : Nat) (n : Byte) := logic_logicResult s len .or n (logicAc_or _ _ n)
  obtain ⟨hanaM, hanaFault⟩ := read_operandM (s := s) (i := .anaM) rfl (hand 1)
  obtain ⟨hxraM, hxraFault⟩ := read_operandM (s := s) (i := .xraM) rfl (hxor 1)
  obtain ⟨horaM, horaFault⟩ := read_operandM (s := s) (i := .oraM) rfl (hor 1)
  exact ⟨fun _ => ⟨_, rfl, hand ..⟩, fun _ => ⟨_, rfl, hand ..⟩, fun _ => ⟨_, rfl, hxor ..⟩, fun _ => ⟨_, rfl, hxor ..⟩,
    fun _ => ⟨_, rfl, hor ..⟩, fun _ => ⟨_, rfl, hor ..⟩, fun hin => ⟨hanaM hin, hxraM hin, horaM hin⟩, hanaFault,
    hxraFault, horaFault⟩

/-- Settles O31: RLC and RRC turn the eight bits of A, RAL and RAR the nine of CY and A. -/
theorem rotatesReturnAfterFullTurn : Obligations.RotatesReturnAfterFullTurn := by
  intro s
  have hrlc := execTimes_rotate (i := .rlc) (turn := rlcTurn) (fun _ => rfl) 8 s
  have hrrc := execTimes_rotate (i := .rrc) (turn := rrcTurn) (fun _ => rfl) 8 s
  have hral := execTimes_rotate (i := .ral) (turn := ralTurn) (fun _ => rfl) 9 s
  have hrar := execTimes_rotate (i := .rar) (turn := rarTurn) (fun _ => rfl) 9 s
  rw [rlcTurn_eight] at hrlc
  rw [rrcTurn_eight] at hrrc
  rw [ralTurn_nine, turned_self] at hral
  rw [rarTurn_nine, turned_self] at hrar
  exact ⟨⟨_, hrlc, set_get_same s.regs .a, getLsbD_zero_iff _⟩, ⟨_, hrrc, set_get_same s.regs .a, getLsbD_seven_iff_div _⟩,
    hral, hrar⟩

end Sys2Proof.Proofs
end

/-! ### The ports and their devices (45_io_special.md R210 to R215; 60_exceptions.md R240 to R246) -/

section
namespace Sys2Proof.Machine

open Sys2Proof.Spec

/-! What `INPUT` answers, by its port. -/

theorem inputCall_shiftResult {s : State} {port : Byte} (h : s.cfg.ports = .arcade) (hport : port.toNat = 3) :
    inputCall port s = (s.dev.shiftResult, s) := by
  simp only [inputCall, h, Devices.portValue, hport]

theorem inputCall_unmapped {s : State} {port : Byte} (h : s.cfg.ports = .arcade) (hport : 3 < port.toNat) :
    inputCall port s = (0, s) := by
  have hvalue : s.dev.portValue port = some 0 := by
    unfold Devices.portValue
    split
    case h_5 => rfl
    all_goals omega
  simp only [inputCall, h, hvalue]

theorem inputCall_draw {s : State} {port : Byte} (h : s.cfg.ports = .external ∨ port.toNat < 3) :
    inputCall port s = s.draw port := by
  have hvalue (hport : port.toNat < 3) : s.dev.portValue port = none := by
    obtain h | h | h : port.toNat = 0 ∨ port.toNat = 1 ∨ port.toNat = 2 := by omega
    all_goals simp only [Devices.portValue, h]
  cases hports : s.cfg.ports with
  | external => simp only [inputCall, hports]
  | arcade =>
    have hport : port.toNat < 3 := h.resolve_left (by rw [hports]; nofun)
    simp only [inputCall, hports, hvalue hport]

/-! What `OUTPUT` does to the devices, by its port. -/

section
variable (d : Devices) {port : Byte} (v : Byte)

theorem portWrite_offset (h : port.toNat = 2) : d.portWrite port v = (d.setOffset v, []) := by
  simp only [Devices.portWrite, h]

theorem portWrite_sound1 (h : port.toNat = 3) :
    d.portWrite port v = ({ d with sound1 := v }, soundEvents .one d.sound1 v) := by
  simp only [Devices.portWrite, h]

theorem portWrite_shift (h : port.toNat = 4) : d.portWrite port v = (d.shiftIn v, []) := by
  simp only [Devices.portWrite, h]

theorem portWrite_sound2 (h : port.toNat = 5) :
    d.portWrite port v = ({ d with sound2 := v }, soundEvents .two d.sound2 v) := by
  simp only [Devices.portWrite, h]

theorem portWrite_watchdog (h : port.toNat = 6) : d.portWrite port v = ({ d with watchdog := v }, []) := by
  simp only [Devices.portWrite, h]

theorem portWrite_unmapped (h : port.toNat < 2 ∨ 6 < port.toNat) : d.portWrite port v = (d, []) := by
  unfold Devices.portWrite
  split
  case h_6 => rfl
  all_goals omega

end

theorem shiftResult_toNat (d : Devices) :
    d.shiftResult.toNat = d.shift.toNat / 2 ^ (8 - d.shiftOff.toNat) % 256 := by
  rw [Devices.shiftResult, BitVec.toNat_setWidth, BitVec.toNat_ushiftRight, Nat.shiftRight_eq_div_pow]

theorem setOffset_shiftOff_toNat (d : Devices) (v : Byte) : (d.setOffset v).shiftOff.toNat = v.toNat % 8 :=
  BitVec.toNat_setWidth ..

theorem shiftIn_shift_toNat (d : Devices) (v : Byte) :
    (d.shiftIn v).shift.toNat = 256 * v.toNat + d.shift.toNat / 256 := by
  rw [Devices.shiftIn, joinBytes_toNat, hiByte_toNat]

theorem soundEvents_eq (bank : SoundBank) (latch v : Byte) :
    soundEvents bank latch v = (risingBits latch v).map (.sound bank) := rfl

theorem mem_risingBits {latch v : Byte} {i : Nat} :
    i ∈ risingBits latch v ↔ i < 8 ∧ v.toNat / 2 ^ i % 2 = 1 ∧ latch.toNat / 2 ^ i % 2 = 0 := by
  rw [risingBits, List.mem_filter, List.mem_range, Bool.and_eq_true, Bool.not_eq_true', getLsbD_iff,
    ← Bool.toNat_eq_zero, toNat_getLsbD]

end Sys2Proof.Machine
end

section
namespace Sys2Proof.Proofs

open Sys2Proof.Machine Sys2Proof.Spec

/-- Settles O43: the byte and what is left of the host's inputs are those of the one call. -/
theorem inReadsItsPort : Obligations.InReadsItsPort := by
  refine ⟨fun _ => encoded_of_encode rfl rfl, fun s p => ?_⟩
  obtain ⟨inputs, draws, hcall⟩ := inputCall_update p s
  have hexec : exec (.inP p) s = .next (((portIn p s).2.setReg .a (portIn p s).1).advance 2) := rfl
  rw [portIn_eq hcall] at hexec
  have hinputs : (inputCall p s).2.inputs = inputs := congrArg State.inputs hcall
  have hdraws : (inputCall p s).2.draws = draws := congrArg State.draws hcall
  refine ⟨_, hexec, rfl, rfl, rfl, rfl, sameRegsBut_setReg_of_regs .a _ rfl, fun _ _ => rfl, rfl, rfl, rfl, rfl, rfl, rfl,
    rfl, rfl, fun h hp => ?shift, fun h hp => ?unmapped, fun h => ⟨fun v rest hs => ?ready, fun hs => ?free⟩⟩
  case shift =>
    rw [inputCall_shiftResult h hp] at hinputs hdraws ⊢
    exact ⟨shiftResult_toNat s.dev, hinputs.symm, hdraws.symm⟩
  case unmapped =>
    rw [inputCall_unmapped h hp] at hinputs hdraws ⊢
    exact ⟨rfl, hinputs.symm, hdraws.symm⟩
  case ready =>
    have hdraw : inputCall p s = (v, { s with inputs := rest }) := by rw [inputCall_draw h, State.draw, hs]
    rw [hdraw] at hinputs hdraws ⊢
    exact ⟨rfl, hinputs.symm, hdraws.symm⟩
  case free =>
    have hdraw : inputCall p s = (Config.hostInput s.draws p, { s with draws := s.draws + 1 }) := by
      rw [inputCall_draw h, State.draw, hs]
    rw [hdraw] at hinputs hdraws
    exact ⟨hinputs.symm.trans hs, hdraws.symm⟩

/-- Settles O44: the state after the call is told by `portWrite` of its port. -/
theorem outWritesItsPort : Obligations.OutWritesItsPort := by
  refine ⟨fun _ => encoded_of_encode rfl rfl, fun s p => ?_⟩
  obtain ⟨dev, ev, hout, hexternal, harcade⟩ := portOut_update p (s.reg .a) s
  have hexec : exec (.outP p) s = .next ((portOut p (s.reg .a) s).advance 2) := rfl
  rw [hout] at hexec
  refine ⟨_, ev, hexec, rfl, rfl, rfl, rfl, fun _ _ => rfl, fun _ _ => rfl, rfl, rfl, rfl, rfl, rfl, rfl, rfl, rfl, rfl,
    hexternal, fun h => ⟨fun hp => ?offset, fun hp => ?sound1, fun hp => ?shift, fun hp => ?sound2, fun hp => ?watchdog,
      fun hp => ?unmapped⟩⟩ <;> have hwrite := harcade h
  case offset =>
    rw [portWrite_offset _ _ hp] at hwrite
    obtain ⟨rfl, rfl⟩ := Prod.mk.inj hwrite
    exact ⟨rfl, setOffset_shiftOff_toNat .., rfl⟩
  case sound1 => exact Prod.mk.inj (hwrite.trans (portWrite_sound1 _ _ hp))
  case shift =>
    rw [portWrite_shift _ _ hp] at hwrite
    obtain ⟨rfl, rfl⟩ := Prod.mk.inj hwrite
    exact ⟨rfl, shiftIn_shift_toNat .., rfl⟩
  case sound2 => exact Prod.mk.inj (hwrite.trans (portWrite_sound2 _ _ hp))
  case watchdog => exact Prod.mk.inj (hwrite.trans (portWrite_watchdog _ _ hp))
  case unmapped => exact Prod.mk.inj (hwrite.trans (portWrite_unmapped _ _ hp))

/-- Settles O45: after the two bytes the register holds `y` high and `x` low, and the offset divides its shift by 8. -/
theorem shiftRegisterExtractsWindow : Obligations.ShiftRegisterExtractsWindow := by
  intro d x y off
  refine ⟨(((d.shiftIn x).shiftIn y).setOffset off).shiftResult, rfl, ?_⟩
  have hshift : ((d.shiftIn x).shiftIn y).shift.toNat = 256 * y.toNat + x.toNat := by
    have hx := (d.shift.isLt)
    rw [shiftIn_shift_toNat, shiftIn_shift_toNat]
    omega
  have hoff : off.toNat % 8 ≤ 8 := (Nat.mod_lt _ (by decide)).le
  have hpow : 256 = 2 ^ (8 - off.toNat % 8) * 2 ^ (off.toNat % 8) := by
    rw [← pow_add, Nat.sub_add_cancel hoff]
    rfl
  rw [shiftResult_toNat, setOffset_shiftOff_toNat]
  show ((d.shiftIn x).shiftIn y).shift.toNat / _ % 256 = _
  rw [hshift, ← Nat.mul_div_mul_right _ _ (Nat.two_pow_pos (off.toNat % 8)), ← hpow]

/-- Settles O46: the events are the rising bits of the bank, each once. -/
theorem soundsTriggerOnRisingEdges : Obligations.SoundsTriggerOnRisingEdges := by
  intro bank latch v
  have none_rising {latch v : Byte} (h : ∀ i, i ∉ risingBits latch v) : soundEvents bank latch v = [] := by
    rw [soundEvents_eq, List.eq_nil_iff_forall_not_mem.2 h, List.map_nil]
  refine ⟨none_rising fun i hi => ?again, none_rising fun i hi => ?zero, ?once, fun b i => ?events⟩
  case again =>
    obtain ⟨-, hset, hclear⟩ := mem_risingBits.1 hi
    omega
  case zero =>
    obtain ⟨-, hset, -⟩ := mem_risingBits.1 hi
    simp at hset
  case once =>
    exact (List.nodup_range.filter _).map fun _ _ h => (HostEvent.sound.inj h).2
  case events =>
    rw [soundEvents_eq, List.mem_map]
    constructor
    · rintro ⟨j, hj, ⟨⟩⟩
      exact ⟨rfl, mem_risingBits.1 hj⟩
    · rintro ⟨rfl, hi⟩
      exact ⟨i, mem_risingBits.2 hi, rfl⟩

/-- Settles O47: each is one write of its flag and an advance. -/
theorem specialInstructions : Obligations.SpecialInstructions :=
  ⟨encoded_of_encode rfl rfl, encoded_of_encode rfl rfl, encoded_of_encode rfl rfl, encoded_of_encode rfl rfl, fun _ =>
    ⟨rfl, rfl, rfl, rfl⟩⟩

end Sys2Proof.Proofs
end
